-- ==== Sys2Proof/Word.lean ====
section
/-! DEFINITION. The data word and the register index of the RSA32 CORE (`00_scope.md` R6, R7). -/

namespace Sys2Proof

/-- A data value, operand, result, command word or register word: `W` = 32 bits, unsigned (R6, R7). -/
abbrev Word := BitVec 32

/-- The index k of a data register Dk, 0 to 7: a 3-bit unsigned index (R30, R103, R104). -/
abbrev RegIx := Fin 8

end Sys2Proof
end

