-- ==== Sys2Proof/Config.lean ====
section
/-! DEFINITION. The implementation parameters of `00_scope.md` R6: the fixed ones as numbers, the OPEN ones as
constants with no body, so that nothing proved can rest on a value of theirs. LATENCY has no constant here: it is the
placement of the completion on the agenda of `Machine/State.lean` (R145, log entry 1). INV_ALGORITHM has none either:
it has no observable effect (R193). -/

namespace Sys2Proof

/-- `WINDOW`: the size of the register window in bytes (R6, R34). -/
def Config.windowSize : Nat := 64

/-- OPEN (R6, decision D27): which 64-byte block of the bus addresses the platform gives the window. -/
opaque Config.baseIndex : Nat

/-- `BASE`, the bus address of offset 0x00: OPEN but for being a multiple of 64 (R6, R71). -/
def Config.base : Nat := Config.windowSize * Config.baseIndex

/-- `ID_VALUE` (R6, R46). -/
def Config.idValue : Word := 0x52534143#32

/-- OPEN (R6, decision D13): whether POW_E0_M1 is 1. -/
opaque Config.powE0M1Bit : Bool

/-- `POW_E0_M1`, the value POWMOD writes when the exponent is 0 and the modulus is 1: either 0 or 1 (R6, R184). -/
def Config.powE0M1 : Word := if Config.powE0M1Bit then 1#32 else 0#32

end Sys2Proof
end

