-- ==== Sys2Proof/Syntax.lean ====
section
/-! DEFINITION. The six commands (`30_encoding.md` R105), one constructor per row of opcode_table.json. The fields of a
constructor are the register fields its row leaves free, in the order RD, RS1, RS2, RS3 (R106). -/

namespace Sys2Proof

inductive Instr where
  /-- `ISPRIME Dd, Dx` (R160). -/
  | isprime (rd rs1 : RegIx)
  /-- `GCD Dd, Da, Db` (R170). -/
  | gcd (rd rs1 rs2 : RegIx)
  /-- `POWMOD Dd, Db, De, Dm`: base, exponent, modulus (R180). -/
  | powmod (rd rs1 rs2 rs3 : RegIx)
  /-- `INV Dd, De, Dz, Dn` (R190). -/
  | inv (rd rs1 rs2 rs3 : RegIx)
  /-- `FACTOR Dd, Dn`: writes Dd, D(d+1), D(d+2) (R200). -/
  | factor (rd rs1 : RegIx)
  /-- `CLR` (R215). -/
  | clr
  deriving DecidableEq, Repr

end Sys2Proof
end

