-- ==== Sys2Proof/WellFormed.lean ====
section
/-! DEFINITION. Which instructions are commands of the block: the types of `Instr` already bound every register field,
so the one check left is FACTOR's (`30_encoding.md` R107). -/

namespace Sys2Proof

/-- FACTOR's three destinations RD, RD+1 and RD+2 must all exist: RD is 0 to 5 (R107, decision D34). -/
def factorDestinationOk (rd : RegIx) : Bool := rd.val ≤ 5

def Instr.wellFormed : Instr → Bool
  | .isprime _ _ => true
  | .gcd _ _ _ => true
  | .powmod _ _ _ _ => true
  | .inv _ _ _ _ => true
  | .factor rd _ => factorDestinationOk rd
  | .clr => true

/-- The instruction is a command of the block (R105 to R107). -/
abbrev Instr.WellFormed (i : Instr) : Prop := i.wellFormed = true

end Sys2Proof
end

