-- ==== Sys2Proof/Decode.lean ====
section
/-! DEFINITION. The command word: its fields (`30_encoding.md` R101), the decoder, total on every 32-bit word and
rejecting by name (R105, R107, R108), the predicate `legal` as R108 writes it, the match and mask table (R106), and the
encoder (R102). -/

namespace Sys2Proof

/-! ## The fields of a command word (R101) -/

/-- OP, bits 3:0. -/
def opField (w : Word) : BitVec 4 := w.extractLsb 3 0

/-- RD, bits 10:8. -/
def rdField (w : Word) : RegIx := (w.extractLsb 10 8).toFin

/-- RS1, bits 14:12. -/
def rs1Field (w : Word) : RegIx := (w.extractLsb 14 12).toFin

/-- RS2, bits 18:16. -/
def rs2Field (w : Word) : RegIx := (w.extractLsb 18 16).toFin

/-- RS3, bits 22:20. -/
def rs3Field (w : Word) : RegIx := (w.extractLsb 22 20).toFin

/-- The reserved bits 7:4, 11, 15, 19 and 31:23 are all 0 (R101). -/
def reservedBitsZero (w : Word) : Bool :=
  w.extractLsb 7 4 == 0 && w.extractLsb 11 11 == 0 && w.extractLsb 15 15 == 0 &&
  w.extractLsb 19 19 == 0 && w.extractLsb 31 23 == 0

/-! ## The decoder -/

/-- Why a word is no command (the four cases of R108). -/
inductive Reject where
  /-- OP is 0x0 or 0x7 to 0xF. -/
  | reservedOpcode
  /-- A bit of 7:4, 11, 15, 19 or 31:23 is 1. -/
  | reservedBits
  /-- A register field the command does not use is not 0. -/
  | unusedField
  /-- FACTOR with RD = 6 or RD = 7 (R107). -/
  | factorDestination
  deriving DecidableEq, Repr

/-- The operation OP selects, over the register fields (R105): the fields a row does not use must be 0. -/
def decodeFields (op : BitVec 4) (rd rs1 rs2 rs3 : RegIx) : Except Reject Instr :=
  match op.toNat with
  | 1 => if rs2 = 0 ∧ rs3 = 0 then .ok (.isprime rd rs1) else .error .unusedField
  | 2 => if rs3 = 0 then .ok (.gcd rd rs1 rs2) else .error .unusedField
  | 3 => .ok (.powmod rd rs1 rs2 rs3)
  | 4 => .ok (.inv rd rs1 rs2 rs3)
  | 5 =>
    if rs2 = 0 ∧ rs3 = 0 then
      if factorDestinationOk rd then .ok (.factor rd rs1) else .error .factorDestination
    else .error .unusedField
  | 6 => if rd = 0 ∧ rs1 = 0 ∧ rs2 = 0 ∧ rs3 = 0 then .ok .clr else .error .unusedField
  | _ => .error .reservedOpcode

/-- The command a word is, or why it is none. -/
def decode (w : Word) : Except Reject Instr :=
  if reservedBitsZero w then
    decodeFields (opField w) (rdField w) (rs1Field w) (rs2Field w) (rs3Field w)
  else .error .reservedBits

/-- `legal(w)`, transcribed from R108. -/
def legal (w : Word) : Bool :=
  (w &&& 0xFF8888F0#32) == 0#32 &&
  [0x1#4, 0x2#4, 0x3#4, 0x4#4, 0x5#4, 0x6#4].contains (w.extractLsb 3 0) &&
  (w.extractLsb 3 0 != 0x1#4 || (w.extractLsb 18 16 == 0#3 && w.extractLsb 22 20 == 0#3)) &&
  (w.extractLsb 3 0 != 0x2#4 || w.extractLsb 22 20 == 0#3) &&
  (w.extractLsb 3 0 != 0x5#4 ||
    (w.extractLsb 18 16 == 0#3 && w.extractLsb 22 20 == 0#3 && (w.extractLsb 10 8).toNat ≤ 5)) &&
  (w.extractLsb 3 0 != 0x6#4 || w.extractLsb 22 8 == 0#15)

/-! ## The match and mask table (R106) -/

/-- A row of R106: `w` is the named command when `w AND mask = match`. -/
structure OpcodeRow where
  mnemonic : String
  bits : Word
  mask : Word
  deriving DecidableEq, Repr

def OpcodeRow.covers (r : OpcodeRow) (w : Word) : Bool := (w &&& r.mask) == r.bits

def isprimeRow : OpcodeRow := ⟨"ISPRIME", 0x00000001#32, 0xFFFF88FF#32⟩
def gcdRow : OpcodeRow := ⟨"GCD", 0x00000002#32, 0xFFF888FF#32⟩
def powmodRow : OpcodeRow := ⟨"POWMOD", 0x00000003#32, 0xFF8888FF#32⟩
def invRow : OpcodeRow := ⟨"INV", 0x00000004#32, 0xFF8888FF#32⟩
def factorRow : OpcodeRow := ⟨"FACTOR", 0x00000005#32, 0xFFFF88FF#32⟩
def clrRow : OpcodeRow := ⟨"CLR", 0x00000006#32, 0xFFFFFFFF#32⟩

/-- The whole table of R106, in its order. -/
def opcodeRows : List OpcodeRow := [isprimeRow, gcdRow, powmodRow, invRow, factorRow, clrRow]

/-- The row of a command. -/
def Instr.row : Instr → OpcodeRow
  | .isprime _ _ => isprimeRow
  | .gcd _ _ _ => gcdRow
  | .powmod _ _ _ _ => powmodRow
  | .inv _ _ _ _ => invRow
  | .factor _ _ => factorRow
  | .clr => clrRow

/-! ## The encoder -/

/-- `enc(op, rd, rs1, rs2, rs3)` of R102. -/
def enc (op : Nat) (rd rs1 rs2 rs3 : RegIx) : Word :=
  BitVec.ofNat 32 (op + rd.val * 2 ^ 8 + rs1.val * 2 ^ 12 + rs2.val * 2 ^ 16 + rs3.val * 2 ^ 20)

/-- The word of a command (R120); a field it does not use is 0 (R102). -/
def encode : Instr → Word
  | .isprime rd rs1 => enc 0x1 rd rs1 0 0
  | .gcd rd rs1 rs2 => enc 0x2 rd rs1 rs2 0
  | .powmod rd rs1 rs2 rs3 => enc 0x3 rd rs1 rs2 rs3
  | .inv rd rs1 rs2 rs3 => enc 0x4 rd rs1 rs2 rs3
  | .factor rd rs1 => enc 0x5 rd rs1 0 0
  | .clr => enc 0x6 0 0 0 0

/-! ## A word given as a number, as opcode_table.json numbers its bits -/

/-- The command word whose low `nbits` bits are those of `w`, every higher bit being 0. A command is one 32-bit word
(R100), so `none` when the number does not fit one. -/
def tableWord (nbits w : Nat) : Option Word :=
  if w % 2 ^ nbits < 2 ^ 32 then some (BitVec.ofNat 32 (w % 2 ^ nbits)) else none

/-- The instruction the decoder reads from those bits. -/
def decodeTableWord (nbits w : Nat) : Option Instr :=
  (tableWord nbits w).bind fun word => (decode word).toOption

end Sys2Proof
end

