-- ==== Sys2Proof/Machine/State.lean ====
section
/-! DEFINITION. The state of the block (`10_state.md`), the steps of its environment (`40_command_cycle.md` R140), the
reasons a step can stop, and the state after reset (R55). -/

namespace Sys2Proof.Machine

/-- The engine phase (R52). STATUS.BUSY is 1 exactly in phase `busy` (R37), so BUSY has no field of its own. -/
inductive Phase where
  | idle
  | busy
  deriving DecidableEq, Repr

/-- The completion codes that are ever written (`60_exceptions.md` R221); 7 to 15 never are (R229). -/
inductive CompletionCode where
  /-- 0: normal completion. -/
  | ok
  /-- 1: the word fails `legal` (R223). -/
  | illegal
  /-- 2: POWMOD with modulus 0 (R224). -/
  | zeroModulus
  /-- 3: INV found no inverse within the bound (R225). -/
  | noInverse
  /-- 4: INV with e = 0 (R226). -/
  | divZero
  /-- 5: a scan of FACTOR reached below 2 (R227). -/
  | factorFail
  /-- 6: a requested abort was taken (R228). -/
  | aborted
  deriving DecidableEq, Repr

/-- The latch: the engine's own copy of the command and its operand values, taken at start (R50, R141). -/
structure Latch where
  word : Word
  op : BitVec 4
  rd : RegIx
  a : Word
  b : Word
  c : Word
  deriving DecidableEq, Repr

/-- What a command ends with: `finish(code, flag, writes)` (`00_scope.md` R12). -/
structure Finish where
  code : CompletionCode
  flag : Bool
  writes : List (RegIx × Word)
  deriving DecidableEq, Repr

/-- What a bus transaction asks for. The data of a write is the 32-bit word of an admitted one; an unsupported write
changes no state whatever it carries (R72), so its data is not looked at. -/
inductive Access where
  | read
  | write (data : Word)
  deriving DecidableEq, Repr

/-- A bus transaction (R13, R49, R72): a bus address, the size of a beat in bytes, the number of beats (more than one is
a burst), and a read or a write. -/
structure Transaction where
  addr : Nat
  bytes : Nat
  beats : Nat
  access : Access
  deriving DecidableEq, Repr

/-- How the register port answers (R49, R72). A read answered `error` has no data (R72). -/
inductive Response where
  | okayRead (data : Word)
  | okayWrite
  | error
  deriving DecidableEq, Repr

/-- The kinds of step of R140. A host read and a host write are transactions. A completion comes with the choice R150
leaves open: whether an abort requested by then is taken (log entry 4). -/
inductive Event where
  | transaction (t : Transaction)
  | completion (takeAbort : Bool)
  | reset
  deriving DecidableEq, Repr

structure State where
  /-- D0 to D7 (R30). -/
  regs : Vector Word 8
  /-- The engine phase, which STATUS.BUSY shows (R52, R37). -/
  phase : Phase
  /-- STATUS.DONE (R38). -/
  done : Bool
  /-- STATUS.FLAG (R39). -/
  flag : Bool
  /-- STATUS.OVR (R40). -/
  ovr : Bool
  /-- STATUS.CODE (R41). -/
  code : CompletionCode
  /-- CTRL.IE (R43). -/
  ie : Bool
  /-- The hidden abort request (R51). -/
  abortReq : Bool
  /-- The hidden latch (R50). -/
  latch : Latch
  /-- The MODEL'S OWN: the steps still to come, in the total order of R78 (log entry 1). -/
  agenda : List Event
  /-- The MODEL'S OWN: the choice R150 leaves open, for a completion the agenda does not schedule (log entry 4). -/
  finalAbort : Bool
  /-- The MODEL'S OWN: the register port's last answer (R49, log entry 5). -/
  response : Option Response
  deriving DecidableEq, Repr

/-- What stops a step with a fault. -/
inductive Fault where
  /-- Raised by a transaction in the window that is not an aligned single 4-byte read or write: the block answers ERROR
  and changes no state, and a model treats it as a fault of the host's step (R72, R222). Safe: the model stops where the
  block goes on unchanged (log entry 9). -/
  | busError
  deriving DecidableEq, Repr

/-- What a step refuses. -/
inductive Refusal where
  /-- Raised by an arm of `exec` that has no meaning yet; no arm of this model is one. Safe. -/
  | notModelled (mnemonic : String)
  /-- Raised by a transaction whose address is outside the window: the block answers no such address and the platform
  decides what happens (R71). Safe: the model stops where the block goes on unchanged (log entry 10). -/
  | outsideWindow
  deriving DecidableEq, Repr

/-- The latch after reset (R55). -/
def Latch.reset : Latch := ⟨0#32, 0#4, 0, 0#32, 0#32, 0#32⟩

/-- The state after reset: every field at the value of R55; the three fields that are the model's own at the values of
log entries 1, 4 and 5. -/
def State.reset : State where
  regs := Vector.replicate 8 0#32
  phase := .idle
  done := false
  flag := false
  ovr := false
  code := .ok
  ie := false
  abortReq := false
  latch := Latch.reset
  agenda := []
  finalAbort := false
  response := none

end Sys2Proof.Machine
end

