-- ==== Sys2Proof/Machine/Flags.lean ====
section
/-! DEFINITION. The words STATUS and CTRL read as (`10_state.md` R36, R43), the output irq (R48), and the rule of
STATUS.FLAG for each command (R39). -/

namespace Sys2Proof.Machine

/-- STATUS.BUSY: 1 exactly in phase BUSY (R37, R52). -/
def State.busy (s : State) : Bool :=
  match s.phase with
  | .idle => false
  | .busy => true

/-- The number of a completion code (`60_exceptions.md` R221). -/
def CompletionCode.number : CompletionCode → BitVec 4
  | .ok => 0#4
  | .illegal => 1#4
  | .zeroModulus => 2#4
  | .noInverse => 3#4
  | .divZero => 4#4
  | .factorFail => 5#4
  | .aborted => 6#4

/-- STATUS as a read returns it: BUSY[0], DONE[1], FLAG[2], OVR[3], CODE[7:4], and 31:8 zero (R36). -/
def State.statusWord (s : State) : Word :=
  0#24 ++ s.code.number ++ BitVec.ofBool s.ovr ++ BitVec.ofBool s.flag ++ BitVec.ofBool s.done ++ BitVec.ofBool s.busy

/-- CTRL as a read returns it: IE in bit 0; ABORT and 31:2 read 0 (R43 to R45). -/
def State.ctrlWord (s : State) : Word := 0#31 ++ BitVec.ofBool s.ie

/-- The output `irq`, a level: STATUS.DONE AND CTRL.IE (R48, R234). -/
def State.irq (s : State) : Bool := s.done && s.ie

/-- FLAG of GCD: 1 if the result is 1 (R39, R170). -/
def gcdFlag (g : Nat) : Bool := g == 1

/-- FLAG of POWMOD: 1 if the modulus is not 0 (R39, R180). -/
def powmodFlag (m : Nat) : Bool := m != 0

end Sys2Proof.Machine
end

