-- ==== Sys2Proof/Machine/Operands.lean ====
section
/-! DEFINITION. The one operand form of the command set: a register field of the word names a data register, whose
content at the start step is latched (`30_encoding.md` R103, R104; `40_command_cycle.md` R141, R142). -/

namespace Sys2Proof.Machine

/-- The content of data register Dk: `x[k]` (`00_scope.md` R11). -/
def State.reg (s : State) (k : RegIx) : Word := s.regs[k]

/-- The latch a start with word `w` takes (R141). A field the command does not use latches the register it names all
the same (R142). -/
def latchOperands (w : Word) (s : State) : Latch where
  word := w
  op := opField w
  rd := rdField w
  a := s.reg (rs1Field w)
  b := s.reg (rs2Field w)
  c := s.reg (rs3Field w)

end Sys2Proof.Machine
end

