-- ==== Sys2Proof/Machine/Ops.lean ====
section
/-! DEFINITION. The shared operations: `finish`, which ends every command (`00_scope.md` R12, `40_command_cycle.md`
R144), the start (R141), the reset (`70_reset_and_hazards.md` R260), and the reads and writes of the register window
(`10_state.md` R34, `20_memory.md` R76).

The block takes no exception and returns from none: no state is saved, no mode changes and no control is transferred on
any event (`60_exceptions.md` R220, R235). Every unusual condition is a completion code, so `finish` is the one shared
operation that stands where another hardware takes an exception; what ends an interrupt is a write to STATUS.DONE or a
start (R236). -/

namespace Sys2Proof.Machine

/-! ## Ending a command -/

/-- Writes of data registers, all in one step (R144). -/
def applyWrites (regs : Vector Word 8) : List (RegIx × Word) → Vector Word 8
  | [] => regs
  | (k, v) :: ws => applyWrites (regs.set k v) ws

/-- `finish(code, flag, writes)`: in one atomic step the writes, CODE, FLAG, BUSY <- 0 and DONE <- 1 (R12, R144). The
abort request is not among what a completion changes (log entry 13). -/
def finish (f : Finish) (s : State) : State :=
  { s with
    regs := applyWrites s.regs f.writes
    code := f.code
    flag := f.flag
    phase := .idle
    done := true }

/-- The outcome ILLEGAL: code 1, FLAG 0, no register write (R143, R223). -/
def illegalFinish : Finish := ⟨.illegal, false, []⟩

/-- The outcome ABORTED: code 6, FLAG 0, no register write (R150, R228). -/
def abortedFinish : Finish := ⟨.aborted, false, []⟩

/-- A result as a register word: results are below 2^32 (R8), so nothing is cut off. -/
def resultWord (n : Nat) : Word := BitVec.ofNat 32 n

/-! ## Starting a command and reset -/

/-- A start with word `w` (R141), legal or not. -/
def start (w : Word) (s : State) : State :=
  { s with
    latch := latchOperands w s
    abortReq := false
    phase := .busy
    done := false
    flag := false
    code := .ok }

/-- A reset: every piece of the block's state takes its reset value, whatever was running (R55, R260, R261). What is
still to come from outside (`agenda`, `finalAbort`) is not the block's and stays (log entry 11). -/
def resetBlock (s : State) : State :=
  { State.reset with agenda := s.agenda, finalAbort := s.finalAbort }

/-! ## The register window -/

/-- The registers of the window (R34). -/
inductive Target where
  | data (k : RegIx)
  | cmd
  | status
  | ctrl
  | id
  | reserved
  deriving DecidableEq, Repr

/-- The register whose 4 bytes hold the offset (R34): Dk at 4k, CMD at 0x20, STATUS at 0x24, CTRL at 0x28, ID at 0x2C,
the rest reserved. -/
def target (offset : Nat) : Target :=
  match offset / 4 with
  | 8 => .cmd
  | 9 => .status
  | 10 => .ctrl
  | 11 => .id
  | k => if h : k < 8 then .data ⟨k, h⟩ else .reserved

/-- What a read of a register returns: CMD and the reserved offsets read 0 (R35, R47), ID its constant (R46). -/
def readTarget (s : State) : Target → Word
  | .data k => s.reg k
  | .cmd => 0#32
  | .status => s.statusWord
  | .ctrl => s.ctrlWord
  | .id => Config.idValue
  | .reserved => 0#32

/-- A write of a data register or of CMD dropped because BUSY = 1 sets OVR and does nothing else (R40, R147, R148). -/
def dropWrite (s : State) : State := { s with ovr := true }

/-- A write of Dk (R31, R148). -/
def writeData (k : RegIx) (v : Word) (s : State) : State :=
  if s.busy then dropWrite s else { s with regs := s.regs.set k v }

/-- A write of CMD: a start while BUSY = 0, dropped while BUSY = 1 (R35, R141, R147). -/
def writeCmd (v : Word) (s : State) : State :=
  if s.busy then dropWrite s else start v s

/-- A write of STATUS: W1C on DONE (bit 1) and OVR (bit 3), nothing else, whatever BUSY is (R38, R40, R42). -/
def writeStatus (v : Word) (s : State) : State :=
  { s with
    done := s.done && !v[1]
    ovr := s.ovr && !v[3] }

/-- A write of CTRL: IE takes bit 0; a 1 in bit 1 while BUSY = 1 sets the abort request (R43 to R45). -/
def writeCtrl (v : Word) (s : State) : State :=
  { s with
    ie := v[0]
    abortReq := s.abortReq || (v[1] && s.busy) }

/-- The effect of a write of a register (R76): none on ID and the reserved offsets (R46, R47). -/
def writeTarget (v : Word) (s : State) : Target → State
  | .data k => writeData k v s
  | .cmd => writeCmd v s
  | .status => writeStatus v s
  | .ctrl => writeCtrl v s
  | .id => s
  | .reserved => s

/-! ## Bus transactions -/

/-- `MemRead(addr, 4)` (R13, R86). -/
def memRead (addr : Nat) : Transaction := ⟨addr, 4, 1, .read⟩

/-- `MemWrite(addr, 4, v)` (R13, R86). -/
def memWrite (addr : Nat) (v : Word) : Transaction := ⟨addr, 4, 1, .write v⟩

/-- The register offset of a bus address, `addr - BASE`; `none` outside the window (R71). -/
def windowOffset (addr : Nat) : Option Nat :=
  if Config.base ≤ addr ∧ addr < Config.base + Config.windowSize then some (addr - Config.base) else none

/-- The transaction is one the block supports at this offset: a single aligned 4-byte access (R72). -/
def Transaction.supported (t : Transaction) (offset : Nat) : Bool :=
  t.bytes == 4 && t.beats == 1 && offset % 4 == 0

/-- What the block does with a transaction at an offset of its window, and what it answers: a supported read changes
nothing (R75) and returns the register, a supported write has the effect of R76, and any other transaction is answered
ERROR and changes nothing (R72, R222). -/
def access (offset : Nat) (t : Transaction) (s : State) : State × Response :=
  if t.supported offset then
    match t.access with
    | .read => (s, .okayRead (readTarget s (target offset)))
    | .write v => (writeTarget v s (target offset), .okayWrite)
  else (s, .error)

end Sys2Proof.Machine
end

