-- ==== Sys2Proof/Machine/Clear.lean ====
section
/-! DEFINITION. CLR (`46_clear.md`). -/

namespace Sys2Proof.Machine

/-- The outcome of CLR: all eight data registers are written with 0 (R215). -/
def clrFinish : Finish :=
  ⟨.ok, true, [(0, 0#32), (1, 0#32), (2, 0#32), (3, 0#32), (4, 0#32), (5, 0#32), (6, 0#32), (7, 0#32)]⟩

/-- CLR, at completion (R215). -/
def execClr (s : State) : Host.Outcome State Fault Refusal :=
  .next (finish clrFinish s)

end Sys2Proof.Machine
end

