-- ==== Sys2Proof/Machine/Arith.lean ====
section
/-! DEFINITION. The exact integer square root of `00_scope.md` R10, on naturals. -/

namespace Sys2Proof.Machine

/-- The largest root not above `isqrt(a)` that agrees with `r` above bit `n`: tries the bits n-1 down to 0. -/
def isqrtBits (a : Nat) : Nat → Nat → Nat
  | 0, r => r
  | n + 1, r => if (r + 2 ^ n) * (r + 2 ^ n) ≤ a then isqrtBits a n (r + 2 ^ n) else isqrtBits a n r

/-- `isqrt(a)`: the largest natural r with r * r <= a (R10, decision D17). A root of `a` has at most half its bits,
rounded up. -/
def isqrt (a : Nat) : Nat := isqrtBits a (a.log2 / 2 + 1) 0

end Sys2Proof.Machine
end

