-- ==== Sys2Proof/Machine/IsPrime.lean ====
section
/-! DEFINITION. ISPRIME (`41_isprime.md`). -/

namespace Sys2Proof.Machine

/-- The loop of R161 from divisor `k` up to `r`, at most `n` divisions; R163 bounds the divisions by
`(isqrt(a) - 1) div 2`, so that many are enough. -/
def trialDivision (a r : Nat) : Nat → Nat → Bool
  | 0, _ => true
  | n + 1, k =>
    if k ≤ r then
      if a % k = 0 then false else trialDivision a r n (k + 2)
    else true

/-- `IsPrimeFn(a)` (R161). -/
def isPrimeFn (a : Nat) : Bool :=
  if a ≤ 1 then false
  else if a = 2 then true
  else if a % 2 = 0 then false
  else trialDivision a (isqrt a) ((isqrt a - 1) / 2) 3

/-- The outcome of ISPRIME (R160). -/
def isprimeFinish (rd : RegIx) (l : Latch) : Finish :=
  let r := isPrimeFn l.a.toNat
  ⟨.ok, r, [(rd, if r then 1#32 else 0#32)]⟩

/-- ISPRIME, at completion (R160). -/
def execIsprime (rd : RegIx) (s : State) : Host.Outcome State Fault Refusal :=
  .next (finish (isprimeFinish rd s.latch) s)

end Sys2Proof.Machine
end

