-- ==== Sys2Proof/Machine/Factor.lean ====
section
/-! DEFINITION. FACTOR (`45_factor.md`). -/

namespace Sys2Proof.Machine

/-- Scan 1 (R202): the largest prime not above `c`, scanning down by 1; `none` when the scan reaches below 2. -/
def scanPrime : Nat → Option Nat
  | 0 => none
  | 1 => none
  | c + 2 => if isPrimeFn (c + 2) then some (c + 2) else scanPrime (c + 1)

/-- Scan 2 (R203): from `k` down in steps of 2, the first k that is prime and divides `n`; `none` when the scan reaches
below 2. -/
def scanDivisor (n : Nat) : Nat → Option Nat
  | 0 => none
  | 1 => none
  | k + 2 => if isPrimeFn (k + 2) ∧ n % (k + 2) = 0 then some (k + 2) else scanDivisor n k

/-- What FactorFn finds: p, q and t = (p - 1) * (q - 1) (R204). -/
structure Factors where
  p : Nat
  q : Nat
  t : Nat
  deriving DecidableEq, Repr

/-- The outputs of step 5 from an accepted p (R204). -/
def factorOutputs (n p : Nat) : Factors := ⟨p, n / p, (p - 1) * (n / p - 1)⟩

/-- `FactorFn(n)`: scan 1 from isqrt(n), scan 2 from the candidate, then the outputs (R201 to R204); `none` is FAIL. -/
def factorFn (n : Nat) : Option Factors :=
  match scanPrime (isqrt n) with
  | none => none
  | some candidate => (scanDivisor n candidate).map (factorOutputs n)

/-- The outcome of FACTOR (R200). RD = 6 and RD = 7 are no FACTOR command: the outcome of such a word is ILLEGAL
(R107), and the decoder never gives one (log entry 14). -/
def factorFinish (rd : RegIx) (l : Latch) : Finish :=
  if factorDestinationOk rd then
    match factorFn l.a.toNat with
    | none => ⟨.factorFail, false, [(rd, 0#32), (rd + 1, 0#32), (rd + 2, 0#32)]⟩
    | some f => ⟨.ok, true, [(rd, resultWord f.p), (rd + 1, resultWord f.q), (rd + 2, resultWord f.t)]⟩
  else illegalFinish

/-- FACTOR, at completion (R200). -/
def execFactor (rd : RegIx) (s : State) : Host.Outcome State Fault Refusal :=
  .next (finish (factorFinish rd s.latch) s)

end Sys2Proof.Machine
end

