-- ==== Sys2Proof/Machine/Gcd.lean ====
section
/-! DEFINITION. GCD (`42_gcd.md`). -/

namespace Sys2Proof.Machine

/-- The loop of R171, at most `n` iterations; it makes at most `b` (R172). -/
def euclid : Nat → Nat → Nat → Nat
  | 0, a, _ => a
  | n + 1, a, b => if b = 0 then a else euclid n b (a % b)

/-- `GcdFn(a, b)`: the degenerate-order guard, then the Euclidean loop (R171). -/
def gcdFn (a b : Nat) : Nat :=
  if b ≥ a then a else euclid b a b

/-- The outcome of GCD (R170). -/
def gcdFinish (rd : RegIx) (l : Latch) : Finish :=
  let g := gcdFn l.a.toNat l.b.toNat
  ⟨.ok, gcdFlag g, [(rd, resultWord g)]⟩

/-- GCD, at completion (R170). -/
def execGcd (rd : RegIx) (s : State) : Host.Outcome State Fault Refusal :=
  .next (finish (gcdFinish rd s.latch) s)

end Sys2Proof.Machine
end

