-- ==== Sys2Proof/Machine/Inverse.lean ====
section
/-! DEFINITION. INV (`44_inverse.md`). -/

namespace Sys2Proof.Machine

/-- The three results of InvFn (R191). -/
inductive InvResult where
  | divZero
  | none
  | found (d : Nat)
  deriving DecidableEq, Repr

/-- The search of R191 over the next `n` candidates from `i` on. -/
def invSearch (e z : Nat) : Nat → Nat → InvResult
  | 0, _ => .none
  | n + 1, i =>
    if (i * z + 1) % e = 0 then .found ((i * z + 1) / e) else invSearch e z n (i + 1)

/-- `InvFn(e, z, n)`: the bounded search over i in [0, n) (R191), e = 0 being checked first (R196). -/
def invFn (e z n : Nat) : InvResult :=
  if e = 0 then .divZero else invSearch e z n 0

/-- The outcome of INV (R190). -/
def invFinish (rd : RegIx) (l : Latch) : Finish :=
  match invFn l.a.toNat l.b.toNat l.c.toNat with
  | .divZero => ⟨.divZero, false, [(rd, 0#32)]⟩
  | .none => ⟨.noInverse, false, [(rd, 0#32)]⟩
  | .found d => ⟨.ok, true, [(rd, resultWord d)]⟩

/-- INV, at completion (R190). -/
def execInv (rd : RegIx) (s : State) : Host.Outcome State Fault Refusal :=
  .next (finish (invFinish rd s.latch) s)

end Sys2Proof.Machine
end

