-- ==== Sys2Proof/Machine/PowMod.lean ====
section
/-! DEFINITION. POWMOD (`43_powmod.md`). -/

namespace Sys2Proof.Machine

/-- The loop of R182 on the accumulator `r`, the running square `s` and the exponent `k`, at most `n` iterations. -/
def powLoop (m : Nat) : Nat → Nat → Nat → Nat → Nat
  | 0, r, _, _ => r
  | n + 1, r, s, k =>
    if 0 < k then
      powLoop m n (if k % 2 = 1 then r * s % m else r) (s * s % m) (k / 2)
    else r

/-- `PowFn(b, e, m)`, for m >= 1 (R182). The exponent halves each time round, so `e` iterations are enough. -/
def powFn (b e m : Nat) : Nat := powLoop m e 1 b e

/-- The outcome of POWMOD (R180): the zero modulus first (R181), then e = 0 with m = 1, whose result is the open
parameter POW_E0_M1 (R184), then the loop. -/
def powmodFinish (rd : RegIx) (l : Latch) : Finish :=
  let b := l.a.toNat
  let e := l.b.toNat
  let m := l.c.toNat
  if m = 0 then ⟨.zeroModulus, powmodFlag m, [(rd, 0#32)]⟩
  else if e = 0 ∧ m = 1 then ⟨.ok, powmodFlag m, [(rd, Config.powE0M1)]⟩
  else ⟨.ok, powmodFlag m, [(rd, resultWord (powFn b e m))]⟩

/-- POWMOD, at completion (R180). -/
def execPowmod (rd : RegIx) (s : State) : Host.Outcome State Fault Refusal :=
  .next (finish (powmodFinish rd s.latch) s)

end Sys2Proof.Machine
end

