-- ==== Sys2Proof/Machine/Dispatch.lean ====
section
/-! DEFINITION. The meaning of each command: what its completion step does (`40_command_cycle.md` R143, R144). The
source fields RS1 to RS3 took effect at the start step, which latched the operand values (R141, R142), so a completion
reads the latch and no source field. -/

namespace Sys2Proof.Machine

def exec (i : Instr) (s : State) : Host.Outcome State Fault Refusal :=
  match i with
  | .isprime rd _ => Sys2Proof.Machine.execIsprime rd s
  | .gcd rd _ _ => Sys2Proof.Machine.execGcd rd s
  | .powmod rd _ _ _ => Sys2Proof.Machine.execPowmod rd s
  | .inv rd _ _ _ => Sys2Proof.Machine.execInv rd s
  | .factor rd _ => Sys2Proof.Machine.execFactor rd s
  | .clr => Sys2Proof.Machine.execClr s

end Sys2Proof.Machine
end

