-- ==== Sys2Proof/Machine/Cycle.lean ====
section
/-! DEFINITION. The command execution cycle (`40_command_cycle.md`): the outcome of the latched command, the completion
with its abort choice, and what each kind of step of R140 does. -/

namespace Sys2Proof.Machine

/-- The command the latch holds, decided from the whole latched word and L.op (R143); `none` is ILLEGAL. A latch taken
by a start always agrees with its own word (R141); one that does not has no meaning in the spec (log entry 15). -/
def latchedInstr (l : Latch) : Option Instr :=
  if legal l.word then
    (decodeFields l.op l.rd (rs1Field l.word) (rs2Field l.word) (rs3Field l.word)).toOption
  else none

/-- Outcome (a) of R150: that of R143. -/
def completeNormally (s : State) : Host.Outcome State Fault Refusal :=
  match latchedInstr s.latch with
  | some i => exec i s
  | none => .next (finish illegalFinish s)

/-- A completion step (R144, R150): ABORTED when an abort was requested and `takeAbort` says it is taken, which comes
before every other outcome (R230); else the command's own outcome. -/
def completion (takeAbort : Bool) (s : State) : Host.Outcome State Fault Refusal :=
  if s.abortReq && takeAbort then .next (finish abortedFinish s) else completeNormally s

/-- A completion step where the schedule puts one: it is enabled only in phase BUSY (R140, R144), and in phase IDLE
there is none to take (log entry 1). -/
def completionSlot (takeAbort : Bool) (s : State) : Host.Outcome State Fault Refusal :=
  match s.phase with
  | .idle => .next s
  | .busy => completion takeAbort s

/-- A host transaction: the block answers inside its window (R71, R72); a transaction answered ERROR is a fault of the
host's step (R72, R222). -/
def hostStep (t : Transaction) (s : State) : Host.Outcome State Fault Refusal :=
  match windowOffset t.addr with
  | none => .refused .outsideWindow
  | some offset =>
    match access offset t s with
    | (_, .error) => .fault .busError
    | (s', r) => .next { s' with response := some r }

/-- One step of the kinds of R140. -/
def runEvent (e : Event) (s : State) : Host.Outcome State Fault Refusal :=
  match e with
  | .transaction t => hostStep t s
  | .completion takeAbort => completionSlot takeAbort s
  | .reset => .next (resetBlock s)

/-- The next step in the total order of R78. With nothing left on the agenda a BUSY engine completes (R145: it always
does, after finitely many other steps) and an IDLE one does nothing (R242). -/
def advance (s : State) : Host.Outcome State Fault Refusal :=
  match s.agenda with
  | [] => completionSlot s.finalAbort s
  | e :: rest => runEvent e { s with agenda := rest }

/-- The agenda that makes a completion the very next step, before the steps already on it. -/
def completionFirst (agenda : List Event) : List Event :=
  match agenda with
  | [] => []
  | e :: rest => .completion false :: e :: rest

/-- The state in which the engine has just been started with word `w`, its completion being the next step. -/
def loadCommand (w : Word) (s : State) : State :=
  { start w s with agenda := completionFirst s.agenda }

end Sys2Proof.Machine
end

