-- ==== Sys2Proof/Machine/Step.lean ====
section
/-! DEFINITION. One step of the machine (`40_command_cycle.md` R140), and the loading of a command for the very next
step (log entry 12). -/

namespace Sys2Proof.Machine

/-- One step: the next one of the total order of R78. -/
def step (s : State) : Host.Outcome State Fault Refusal := advance s

/-- `s` with the command word of the given bits in the engine, as a start leaves it, so that the next step is its
completion. The block has no program counter (R33): this stands for the host's write to CMD. A number that is no 32-bit
word leaves `s` as it is. -/
def State.withFetchWord (s : State) (nbits w : Nat) : State :=
  match tableWord nbits w with
  | some word => loadCommand word s
  | none => s

end Sys2Proof.Machine
end

