-- ==== Sys2Proof/Asm.lean ====
section
/-! DEFINITION. The assembler's view of a command (`30_encoding.md` R120, R121): a line is a mnemonic and the numbers of
the data registers it names, destination first. Text (letters, commas, comments) is not modelled, only what a line says. -/

namespace Sys2Proof

/-- A register name D0 to D7; the assembler refuses a line that names a register above D7 (R120). -/
def Asm.register (k : Nat) : Option RegIx := if h : k < 8 then some ⟨k, h⟩ else none

/-- The mnemonics of R120 and the two pseudo-instructions of R121. -/
inductive Asm.Mnemonic where
  | isprime | gcd | powmod | inv | factor | clr
  /-- `ENCRYPT Dc, Dm, De, Dn` is POWMOD with the same registers (R121). -/
  | encrypt
  /-- `DECRYPT Dm, Dc, Dd, Dn` is POWMOD with the same registers (R121). -/
  | decrypt
  deriving DecidableEq, Repr

/-- The command a line stands for before FACTOR's destination is looked at: the canonical forms of R120. -/
def Asm.form : Asm.Mnemonic → List RegIx → Option Instr
  | .isprime, [d, x] => some (.isprime d x)
  | .gcd, [d, a, b] => some (.gcd d a b)
  | .powmod, [d, b, e, m] => some (.powmod d b e m)
  | .inv, [d, e, z, n] => some (.inv d e z n)
  | .factor, [d, n] => some (.factor d n)
  | .clr, [] => some .clr
  | .encrypt, [c, m, e, n] => some (.powmod c m e n)
  | .decrypt, [m, c, d, n] => some (.powmod m c d n)
  | _, _ => none

/-- The command of a line, or `none` where the assembler refuses it: a register above D7, a destination of FACTOR above
D5, or (DEDUCED, log entry 18) a number of operands the mnemonic does not take. -/
def Asm.assemble (m : Asm.Mnemonic) (operands : List Nat) : Option Instr :=
  match operands.mapM Asm.register with
  | none => none
  | some ks => (Asm.form m ks).filter Instr.wellFormed

end Sys2Proof
end

