-- ==== Sys2Proof/Machine/HostSequence.lean ====
section
/-! DEFINITION. The host sequence lines of `30_encoding.md` R122 as steps of the agenda. A line's transaction is at BASE
plus the register's offset (R34, R86). What a host decides from what it reads (host variables, labels, WAIT loops) is
the host's own program and outside the block (R122): any such program, run, is one agenda. -/

namespace Sys2Proof.Machine

/-- A read of the register at an offset. -/
def rdAt (offset : Nat) : Event := .transaction (memRead (Config.base + offset))

/-- A write of the register at an offset. -/
def wrAt (offset : Nat) (v : Word) : Event := .transaction (memWrite (Config.base + offset) v)

/-- `WR Dk, v`. -/
def wrData (k : RegIx) (v : Word) : Event := wrAt (4 * k.val) v

/-- `WR CMD, v`: a raw word, legal or not. -/
def wrCmd (v : Word) : Event := wrAt 0x20 v

/-- `WR STATUS, v`. -/
def wrStatus (v : Word) : Event := wrAt 0x24 v

/-- `WR CTRL, v`. -/
def wrCtrl (v : Word) : Event := wrAt 0x28 v

/-- `ISSUE cmd`. -/
def issue (i : Instr) : Event := wrCmd (encode i)

/-- `RD $v, Dk`. -/
def rdData (k : RegIx) : Event := rdAt (4 * k.val)

/-- `RD $v, CMD`. -/
def rdCmd : Event := rdAt 0x20

/-- `RD $v, STATUS`. -/
def rdStatus : Event := rdAt 0x24

/-- `RD $v, CTRL`. -/
def rdCtrl : Event := rdAt 0x28

/-- `RD $v, ID`. -/
def rdId : Event := rdAt 0x2C

end Sys2Proof.Machine
end

