-- ==== Sys2Proof/Machine/Reference.lean ====
section
/-! DEFINITION. What the spec says of the inside of a unit and the machine itself does not use: the extended-Euclidean
datapath that `44_inverse.md` R193 permits for INV (the machine computes the search of R191,
`93_implementation_defined.md` I6), and the loop of POWMOD with a record of the products it forms (`43_powmod.md` R183).
Statements compare each with what the machine computes, and bound the recorded products. -/

namespace Sys2Proof.Machine

/-- `i0 = (-(z mod e)^(-1)) mod e`, from a Bezout coefficient of `z mod e` and `e` (R193). -/
def euclidIndex (e z : Nat) : Nat := ((-Nat.gcdA (z % e) e) % (e : Int)).toNat

/-- R193's datapath, case by case. -/
def invByEuclid (e z n : Nat) : InvResult :=
  if e = 0 then .divZero
  else if e = 1 then (if 1 ≤ n then .found 1 else .none)
  else if Nat.gcd (z % e) e ≠ 1 then .none
  else if euclidIndex e z < n then .found ((euclidIndex e z * z + 1) / e)
  else .none

/-- The loop of R182 that also records the products `r * s` and `s * s` it forms, in order: its result, and the products
that result came through. -/
def powLoopTraced (m : Nat) : Nat → Nat → Nat → Nat → Nat × List Nat
  | 0, r, _, _ => (r, [])
  | n + 1, r, s, k =>
    if 0 < k then
      let square := s * s
      if k % 2 = 1 then
        let product := r * s
        let rest := powLoopTraced m n (product % m) (square % m) (k / 2)
        (rest.1, product :: square :: rest.2)
      else
        let rest := powLoopTraced m n r (square % m) (k / 2)
        (rest.1, square :: rest.2)
    else (r, [])

end Sys2Proof.Machine
end

