-- ==== Sys2Proof/Safety.lean ====
section
/-! DEFINITION. What statements about runs speak of: the invariant of the block's state, and the host discipline of
`70_reset_and_hazards.md` R265 (which steps drop a write, which clear OVR). -/

namespace Sys2Proof.Machine

/-- The latch's L.op and L.rd are the fields of its L.word, as a start takes them (R141). -/
abbrev Latch.Consistent (l : Latch) : Prop := l.op = opField l.word ∧ l.rd = rdField l.word

/-- The invariant of the block's state: the latch agrees with its own word (R141, R55); while BUSY, DONE, FLAG and CODE
are 0 (R38, R39, R41, R141); a code other than OK goes with FLAG = 0 (R221). -/
abbrev State.Inv (s : State) : Prop :=
  s.latch.Consistent ∧
  (s.phase = .busy → s.done = false ∧ s.flag = false ∧ s.code = .ok) ∧
  (s.code ≠ .ok → s.flag = false)

/-- The command in progress at `s`, whose completion is the next step and is not turned into an abort. -/
abbrev State.CompletesNext (s : State) : Prop :=
  s.phase = .busy ∧
  ((s.agenda = [] ∧ (s.abortReq && s.finalAbort) = false) ∨
    ∃ take rest, s.agenda = .completion take :: rest ∧ (s.abortReq && take) = false)

/-- The state without the step the agenda has next: what that step acts on. -/
def State.popAgenda (s : State) : State := { s with agenda := s.agenda.tail }

/-- The register a supported write transaction is for, if it is one (R71, R72). -/
def writeTargetOf (t : Transaction) : Option Target :=
  match t.access with
  | .read => none
  | .write _ => ((windowOffset t.addr).filter t.supported).map target

/-- The next step drops a write: a write of a data register or of CMD while BUSY = 1 (R147, R148). -/
def State.dropsWriteNext (s : State) : Bool :=
  match s.agenda with
  | .transaction t :: _ =>
    s.busy && (match writeTargetOf t with
      | some (.data _) => true
      | some .cmd => true
      | _ => false)
  | _ => false

/-- The next step may clear OVR: a reset, or a write of STATUS with bit 3 = 1 (R40). -/
def State.clearsOvrNext (s : State) : Bool :=
  match s.agenda with
  | .reset :: _ => true
  | .transaction t :: _ =>
    (match writeTargetOf t, t.access with
      | some .status, .write v => v[3]
      | _, _ => false)
  | _ => false

/-- The next step is a reset (R260). -/
def State.resetsNext (s : State) : Bool :=
  match s.agenda with
  | .reset :: _ => true
  | _ => false

/-- The registers a command's completion may write (`10_state.md` R32). -/
def destinations : Instr → List RegIx
  | .isprime rd _ => [rd]
  | .gcd rd _ _ => [rd]
  | .powmod rd _ _ _ => [rd]
  | .inv rd _ _ _ => [rd]
  | .factor rd _ => [rd, rd + 1, rd + 2]
  | .clr => [0, 1, 2, 3, 4, 5, 6, 7]

/-- The register a command's L.a comes from: RS1, and D0 where the row has no RS1, its field being 0 (R103, R142). -/
def sourceA : Instr → RegIx
  | .isprime _ rs1 => rs1
  | .gcd _ rs1 _ => rs1
  | .powmod _ rs1 _ _ => rs1
  | .inv _ rs1 _ _ => rs1
  | .factor _ rs1 => rs1
  | .clr => 0

/-- The register a command's L.b comes from: RS2, or D0. -/
def sourceB : Instr → RegIx
  | .gcd _ _ rs2 => rs2
  | .powmod _ _ rs2 _ => rs2
  | .inv _ _ rs2 _ => rs2
  | .isprime _ _ => 0
  | .factor _ _ => 0
  | .clr => 0

/-- The register a command's L.c comes from: RS3, or D0. -/
def sourceC : Instr → RegIx
  | .powmod _ _ _ rs3 => rs3
  | .inv _ _ _ rs3 => rs3
  | .isprime _ _ => 0
  | .gcd _ _ _ => 0
  | .factor _ _ => 0
  | .clr => 0

/-- What a completion leaves as it was (R144): every data register but the destinations, OVR, IE, the abort request, the
latch, what the environment still holds, and so every register of the window but the destinations and STATUS. -/
def CompletionFrame (dests : List RegIx) (s t : State) : Prop :=
  (∀ k, k ∉ dests → t.reg k = s.reg k) ∧
  t.ovr = s.ovr ∧ t.ie = s.ie ∧ t.abortReq = s.abortReq ∧ t.latch = s.latch ∧
  t.agenda = s.agenda ∧ t.finalAbort = s.finalAbort ∧ t.response = s.response ∧
  (∀ r, r ≠ .status → (∀ k ∈ dests, r ≠ .data k) → readTarget t r = readTarget s r)

/-- What every completion does to STATUS: BUSY <- 0, DONE <- 1, FLAG and CODE as given (R144). -/
def CompletesWith (code : CompletionCode) (flag : Bool) (t : State) : Prop :=
  t.phase = .idle ∧ t.done = true ∧ t.code = code ∧ t.flag = flag

/-- `k` steps, ending at the first fault or refusal. -/
def run : Nat → State → Host.Outcome State Fault Refusal
  | 0, s => .next s
  | k + 1, s =>
    match step s with
    | .next s' => run k s'
    | .fault r => .fault r
    | .refused r => .refused r

/-- `P` holds at each of the first `k` states a run from `s` passes through before it ends. -/
def Along (P : State → Prop) : Nat → State → Prop
  | 0, _ => True
  | k + 1, s => P s ∧ ∀ s', step s = .next s' → Along P k s'

end Sys2Proof.Machine
end

