-- ==== Sys2Proof/Certificates/Slice0/Obligations.lean ====
section
/-! DEFINITION. The statements for the provers, from the numbered rules of spec/. -/

open Sys2Proof Sys2Proof.Machine

/-! ## Encoding (`30_encoding.md`) -/

/-- R101 to R107: every command, with every register field at every value it may have, is read back from its own word.
-/
def Obligations.DecodeOfEncodeIsTheCommand : Prop :=
  ∀ i : Instr, i.WellFormed → decode (encode i) = .ok i

/-- R100, R105, R108: a word the decoder reads as a command is exactly that command's word, so no bit is dropped. -/
def Obligations.DecodedWordIsTheCommandsOwn : Prop :=
  ∀ (w : Word) (i : Instr), decode w = .ok i → i.WellFormed ∧ encode i = w

/-- R106: a word that decodes is covered by its command's row; a word a row covers decodes to a command of that row,
but for a FACTOR word with RD above 5 (R107). No two rows cover one word, which R106 marks as its own derivation. -/
def Obligations.OpcodeRowsSeparateTheCommands : Prop :=
  (∀ (w : Word) (i : Instr), decode w = .ok i → i.row.covers w = true) ∧
  (∀ (w : Word) (r : OpcodeRow), r ∈ opcodeRows → r.covers w = true → (r = factorRow → (rdField w).val ≤ 5) →
    ∃ i, decode w = .ok i ∧ i.row = r) ∧
  (∀ (w : Word) (r r' : OpcodeRow), r ∈ opcodeRows → r' ∈ opcodeRows → r.covers w = true → r'.covers w = true → r = r')

/-- R108: the predicate `legal`, as the rule writes it in masks, says exactly that some row of R106 covers the word
and that it is no FACTOR word with RD above 5. -/
def Obligations.LegalIsTheOpcodeTable : Prop :=
  ∀ w : Word, legal w = true ↔
    (∃ r ∈ opcodeRows, r.covers w = true) ∧ ¬(factorRow.covers w = true ∧ 5 < (rdField w).val)

/-- R143: a legal word is exactly one command and any other is ILLEGAL; the latch a start takes holds that command. -/
def Obligations.LatchedCommandIsTheWordsOwn : Prop :=
  ∀ (w : Word) (s : State),
    (legal w = true ↔ ∃ i, decode w = .ok i) ∧
    latchedInstr (latchOperands w s) = (decode w).toOption

/-- R107: a FACTOR word with RD = 6 or RD = 7 is covered by FACTOR's row and is ILLEGAL: it completes with code
ILLEGAL, FLAG 0 and no register write. -/
def Obligations.FactorPastD7IsIllegal : Prop :=
  ∀ (w : Word) (s : State), factorRow.covers w = true → 5 < (rdField w).val → s.latch.word = w →
    decode w = .error .factorDestination ∧
    ∃ t, completeNormally s = .next t ∧ CompletesWith .illegal false t ∧ t.regs = s.regs

/-- Words written out from R101 and R105 and the instruction each stands for (`95_test_vectors.md` 3.7). -/
def Obligations.SampleWordsDecode : Prop :=
  decode 0x00000101#32 = .ok (.isprime 1 0) ∧ decode 0x00010202#32 = .ok (.gcd 2 0 1) ∧
  decode 0x00210303#32 = .ok (.powmod 3 0 1 2) ∧ decode 0x00401304#32 = .ok (.inv 3 1 0 4) ∧
  decode 0x00001205#32 = .ok (.factor 2 1) ∧ decode 0x00000006#32 = .ok .clr ∧
  decode 0x00000000#32 = .error .reservedOpcode ∧ decode 0x00800003#32 = .error .reservedBits

/-- R120, R121: a line the assembler takes names only registers up to D7 and is a command of the block; each canonical
form, on any registers D0 to D7, is the command and the word R120 gives it, FACTOR with a destination up to D5 and none
above; ENCRYPT and DECRYPT are POWMOD with the same registers. -/
def Obligations.AssemblerTakesOnlyCommands : Prop :=
  (∀ m ks i, Asm.assemble m ks = some i → i.WellFormed ∧ ∀ k ∈ ks, k < 8) ∧
  (∀ d x : RegIx, Asm.assemble .isprime [d.val, x.val] = some (.isprime d x) ∧
    encode (.isprime d x) = enc 0x1 d x 0 0) ∧
  (∀ d a b : RegIx, Asm.assemble .gcd [d.val, a.val, b.val] = some (.gcd d a b) ∧
    encode (.gcd d a b) = enc 0x2 d a b 0) ∧
  (∀ d b e m : RegIx, Asm.assemble .powmod [d.val, b.val, e.val, m.val] = some (.powmod d b e m) ∧
    encode (.powmod d b e m) = enc 0x3 d b e m) ∧
  (∀ d e z n : RegIx, Asm.assemble .inv [d.val, e.val, z.val, n.val] = some (.inv d e z n) ∧
    encode (.inv d e z n) = enc 0x4 d e z n) ∧
  (∀ d n : RegIx, (d.val ≤ 5 → Asm.assemble .factor [d.val, n.val] = some (.factor d n) ∧
      encode (.factor d n) = enc 0x5 d n 0 0) ∧
    (5 < d.val → Asm.assemble .factor [d.val, n.val] = none)) ∧
  (Asm.assemble .clr [] = some .clr ∧ encode .clr = enc 0x6 0 0 0 0 ∧ encode .clr = 0x00000006#32) ∧
  (∀ ks, Asm.assemble .encrypt ks = Asm.assemble .powmod ks ∧ Asm.assemble .decrypt ks = Asm.assemble .powmod ks)

/-! ## The register window (`10_state.md`, `20_memory.md`) -/

/-- R36: the bits of STATUS; R221: the number each completion code reads as in bits 7:4; R229: CODE is never 7 to 15. -/
def Obligations.StatusLayout : Prop :=
  ∀ s : State,
    s.statusWord[0] = s.busy ∧ s.statusWord[1] = s.done ∧ s.statusWord[2] = s.flag ∧
    s.statusWord[3] = s.ovr ∧ s.statusWord.extractLsb 7 4 = s.code.number ∧
    (s.code = .ok → s.statusWord.extractLsb 7 4 = 0#4) ∧ (s.code = .illegal → s.statusWord.extractLsb 7 4 = 1#4) ∧
    (s.code = .zeroModulus → s.statusWord.extractLsb 7 4 = 2#4) ∧
    (s.code = .noInverse → s.statusWord.extractLsb 7 4 = 3#4) ∧
    (s.code = .divZero → s.statusWord.extractLsb 7 4 = 4#4) ∧
    (s.code = .factorFail → s.statusWord.extractLsb 7 4 = 5#4) ∧
    (s.code = .aborted → s.statusWord.extractLsb 7 4 = 6#4) ∧
    s.statusWord.extractLsb 31 8 = 0#24 ∧ (s.statusWord.extractLsb 7 4).toNat ≤ 6 ∧
    (s.busy = true ↔ s.phase = .busy)

/-- R34, R35, R45 to R47, R86: what a read of each aligned offset returns, BUSY or not. It changes nothing of the
block. -/
def Obligations.ReadReturnsTheRegister : Prop :=
  ∀ (s : State) (o : Nat) (rest : List Event), s.agenda = rdAt o :: rest → o < 64 → o % 4 = 0 →
    ∃ v : Word, step s = .next { s with agenda := rest, response := some (.okayRead v) } ∧
      (∀ k : RegIx, o = 4 * k.val → v = s.reg k) ∧
      (o = 0x20 → v = 0#32) ∧ (o = 0x24 → v = s.statusWord) ∧
      (o = 0x28 → v[0] = s.ie ∧ v.extractLsb 31 1 = 0#31) ∧
      (o = 0x2C → v = 0x52534143#32) ∧ (0x30 ≤ o → v = 0#32)

/-- R75: no read of any size changes anything of the block; a second read with no step between returns the same. -/
def Obligations.NoReadHasASideEffect : Prop :=
  ∀ (s s' : State) (t : Transaction) (rest : List Event),
    s.agenda = .transaction t :: rest → t.access = .read → step s = .next s' →
      s' = { s with agenda := rest, response := s'.response } ∧
      ∀ rest', rest = .transaction t :: rest' →
        step s' = .next { s' with agenda := rest' }

/-- R31: while IDLE a write of Dk takes effect at once, and nothing else changes. -/
def Obligations.DataWriteWhileIdleTakesEffect : Prop :=
  ∀ (s : State) (k : RegIx) (v : Word) (rest : List Event), s.phase = .idle → s.agenda = wrData k v :: rest →
    ∃ t, step s = .next t ∧ t.reg k = v ∧ (∀ j, j ≠ k → t.reg j = s.reg j) ∧
      t = { s with regs := t.regs, agenda := rest, response := some .okayWrite }

/-- R148: a write of a data register while BUSY is dropped: the register keeps its value and OVR is set. -/
def Obligations.DataWriteWhileBusyIsDropped : Prop :=
  ∀ (s : State) (k : RegIx) (v : Word) (rest : List Event), s.phase = .busy → s.agenda = wrData k v :: rest →
    step s = .next { s with ovr := true, agenda := rest, response := some .okayWrite }

/-- R147: a write of CMD while BUSY starts nothing, is not queued and sets OVR; the command, the latch and the abort
request stay as they are. -/
def Obligations.CommandWriteWhileBusyIsDropped : Prop :=
  ∀ (s : State) (w : Word) (rest : List Event), s.phase = .busy → s.agenda = wrCmd w :: rest →
    step s = .next { s with ovr := true, agenda := rest, response := some .okayWrite }

/-- R42: a write of STATUS acts only on DONE and OVR, clearing each where its bit is 1, whatever BUSY is. -/
def Obligations.StatusWriteClearsOnlyDoneAndOvr : Prop :=
  ∀ (s : State) (v : Word) (rest : List Event), s.agenda = wrStatus v :: rest →
    ∃ t, step s = .next t ∧
      (v[1] = true → t.done = false) ∧ (v[1] = false → t.done = s.done) ∧
      (v[3] = true → t.ovr = false) ∧ (v[3] = false → t.ovr = s.ovr) ∧
      t = { s with done := t.done, ovr := t.ovr, agenda := rest, response := some .okayWrite } ∧
      t.statusWord.extractLsb 31 8 = 0#24

/-- R44, R45: a write of CTRL sets IE to bit 0; bit 1 sets the abort request while BUSY and does nothing while IDLE;
every other bit is ignored; bits 31:1 read 0 after it. -/
def Obligations.CtrlWriteSetsEnableAndAbort : Prop :=
  ∀ (s : State) (v : Word) (rest : List Event), s.agenda = wrCtrl v :: rest →
    ∃ t, step s = .next t ∧ t.ie = v[0] ∧
      (v[1] = true → s.phase = .busy → t.abortReq = true) ∧
      (v[1] = false ∨ s.phase = .idle → t.abortReq = s.abortReq) ∧
      t = { s with ie := t.ie, abortReq := t.abortReq, agenda := rest, response := some .okayWrite } ∧
      t.ctrlWord.extractLsb 31 1 = 0#31

/-- R46, R47: writes of ID and of the reserved offsets are ignored: no state changes, OVR is not set, no bus error. ID
always reads 0x5253_4143, the reserved offsets read 0. -/
def Obligations.IdAndReservedIgnoreWrites : Prop :=
  ∀ (s : State) (o : Nat) (v : Word) (rest : List Event), s.agenda = wrAt o v :: rest → 0x2C ≤ o → o < 64 → o % 4 = 0 →
    step s = .next { s with agenda := rest, response := some .okayWrite } ∧
    ∀ u : State, readTarget u (target o) = if o = 0x2C then 0x52534143#32 else 0#32

/-- R72, R222: a transaction in the window that is not a single aligned 4-byte access is answered ERROR and changes no
state, and is a fault of the host's step. -/
def Obligations.UnsupportedAccessFaultsAndChangesNothing : Prop :=
  ∀ (s : State) (t : Transaction) (o : Nat) (rest : List Event),
    s.agenda = .transaction t :: rest → t.addr = Config.base + o → o < 64 →
    ¬(t.bytes = 4 ∧ t.beats = 1 ∧ o % 4 = 0) →
      step s = .fault .busError ∧ ∀ u, access o t u = (u, .error)

/-- R71, with the model's own choice of log entry 10: the block answers no address outside its window, and the model
refuses the step. -/
def Obligations.AddressOutsideTheWindowIsRefused : Prop :=
  ∀ (s : State) (t : Transaction) (rest : List Event), s.agenda = .transaction t :: rest →
    (t.addr < Config.base ∨ Config.base + 64 ≤ t.addr) → step s = .refused .outsideWindow

/-! ## The command cycle (`40_command_cycle.md`) -/

/-- R141: a host write of a word, legal or not, to CMD while IDLE is a start. -/
def Obligations.StartLatchesTheCommand : Prop :=
  ∀ (s : State) (w : Word) (rest : List Event), s.phase = .idle → s.agenda = wrCmd w :: rest →
    ∃ t, step s = .next t ∧
      t.latch.word = w ∧ t.latch.op = w.extractLsb 3 0 ∧ t.latch.rd.val = (w.extractLsb 10 8).toNat ∧
      (∀ k : RegIx, k.val = (w.extractLsb 14 12).toNat → t.latch.a = s.reg k) ∧
      (∀ k : RegIx, k.val = (w.extractLsb 18 16).toNat → t.latch.b = s.reg k) ∧
      (∀ k : RegIx, k.val = (w.extractLsb 22 20).toNat → t.latch.c = s.reg k) ∧
      t.abortReq = false ∧ t.busy = true ∧ t.done = false ∧ t.flag = false ∧ t.code.number = 0#4 ∧ t.phase = .busy ∧
      t.ovr = s.ovr ∧ t.ie = s.ie ∧ t.regs = s.regs ∧
      t.agenda = rest ∧ t.finalAbort = s.finalAbort ∧ t.response = some .okayWrite

/-- R143, R144: when the completion is the next step, no requested abort is taken, and the latch holds the command
`i`, the step is `exec i`, after the completion has left the agenda. -/
def Obligations.StepRunsTheDecodedCommand : Prop :=
  ∀ (s : State) (i : Instr), s.CompletesNext → s.latch.Consistent → decode s.latch.word = .ok i →
    step s = exec i s.popAgenda

/-- The load of log entry 12: a word placed by `withFetchWord` runs in the very next step, on the operands the data
registers hold, and what was on the agenda follows. -/
def Obligations.LoadedWordRunsNext : Prop :=
  ∀ (s : State) (w : Nat) (i : Instr), w < 2 ^ 32 → decodeTableWord 32 w = some i →
    ∃ u, step (s.withFetchWord 32 w) = exec i u ∧ u.latch = latchOperands (BitVec.ofNat 32 w) s ∧
      u.regs = s.regs ∧ u.agenda = s.agenda ∧ u.ovr = s.ovr ∧ u.ie = s.ie

/-- R103, and R151, which the spec derives: a command issued while IDLE and then completed computes from the values
the named registers held at its start, whichever of them are also destinations; a start clears any abort request, so
the choice of R150 does not arise. -/
def Obligations.IssuedCommandUsesTheOperandsAtStart : Prop :=
  ∀ (s : State) (i : Instr) (take : Bool) (rest : List Event), s.phase = .idle → i.WellFormed →
    s.agenda = issue i :: .completion take :: rest →
    ∃ u t, run 2 s = .next t ∧ exec i u = .next t ∧ u.regs = s.regs ∧
      u.latch.a = s.reg (sourceA i) ∧ u.latch.b = s.reg (sourceB i) ∧ u.latch.c = s.reg (sourceC i) ∧
      u.agenda = rest ∧ u.ovr = s.ovr ∧ u.ie = s.ie

/-- R108, R223: an ILLEGAL word written while IDLE starts, and completes with code ILLEGAL (1), FLAG 0 and no register
write; a latched one has no other outcome but ABORTED. -/
def Obligations.IllegalWordCompletesWithoutWrites : Prop :=
  (∀ (s : State) (w : Word) (take : Bool) (rest : List Event), s.phase = .idle → legal w = false →
    s.agenda = wrCmd w :: .completion take :: rest →
    ∃ t, run 2 s = .next t ∧ CompletesWith .illegal false t ∧ t.code.number = 1#4 ∧ t.regs = s.regs ∧
      t.ovr = s.ovr ∧ t.ie = s.ie ∧ t.agenda = rest) ∧
  (∀ (s : State) (take : Bool), legal s.latch.word = false →
    ∃ t, completion take s = .next t ∧ t.regs = s.regs ∧ t.flag = false ∧
      (t.code = .illegal ∨ (t.code = .aborted ∧ s.abortReq = true)))

/-- R150: at a completion with an abort requested both outcomes are admitted, the normal one and ABORTED; with none
requested only the normal one is. -/
def Obligations.RequestedAbortAdmitsBothOutcomes : Prop :=
  ∀ (s : State) (take : Bool) (rest : List Event), s.phase = .busy → s.agenda = .completion take :: rest →
    (s.abortReq = true → take = false → step s = completeNormally s.popAgenda) ∧
    (s.abortReq = true → take = true → step s = .next (finish ⟨.aborted, false, []⟩ s.popAgenda)) ∧
    (s.abortReq = false → step s = completeNormally s.popAgenda)

/-- R228: ABORTED writes no data register and sets FLAG to 0, whatever word is latched (R230: it comes before
ILLEGAL). -/
def Obligations.AbortedKeepsEveryRegister : Prop :=
  ∀ (s : State) (rest : List Event), s.phase = .busy → s.abortReq = true → s.agenda = .completion true :: rest →
    ∃ t, step s = .next t ∧ CompletesWith .aborted false t ∧ t.code.number = 6#4 ∧ t.regs = s.regs ∧
      CompletionFrame [] s.popAgenda t

/-- R268: an abort written while IDLE is lost, and one requested before a start does not carry over to it. -/
def Obligations.AbortDoesNotCarryOver : Prop :=
  ∀ (s : State) (v w : Word) (take : Bool) (rest : List Event), s.phase = .idle →
    s.agenda = wrCtrl v :: wrCmd w :: .completion take :: rest →
    ∃ u t, run 2 s = .next u ∧ u.phase = .busy ∧ u.abortReq = false ∧
      step u = .next t ∧ completeNormally u.popAgenda = .next t ∧ t.code ≠ .aborted

/-- R146, which the spec derives from R142 and R143: what a completion writes depends only on the latch and the abort
decision: two states that agree on these get the same CODE and FLAG, and each data register is either left alone in
both or given the same value in both. -/
def Obligations.OutcomeDependsOnlyOnTheLatch : Prop :=
  ∀ (s s' t t' : State) (take : Bool), s.latch = s'.latch → s.abortReq = s'.abortReq →
    completion take s = .next t → completion take s' = .next t' →
      t.code = t'.code ∧ t.flag = t'.flag ∧
      ∀ k, (t.reg k = s.reg k ∧ t'.reg k = s'.reg k) ∨ t.reg k = t'.reg k

/-- R152, and R149, which the spec derives: host accesses made while BUSY, in any number, change no data register, and
the command then completes exactly as it would have without them. -/
def Obligations.HostAccessesNeverChangeARunningCommand : Prop :=
  ∀ (s t t' s' : State) (ts : List Transaction) (rest : List Event), s.phase = .busy →
    s.agenda = ts.map Event.transaction ++ rest → run ts.length s = .next t →
    completeNormally t = .next t' → completeNormally s = .next s' →
      t.phase = .busy ∧ t.regs = s.regs ∧ t.latch = s.latch ∧ t.agenda = rest ∧
      t'.regs = s'.regs ∧ t'.code = s'.code ∧ t'.flag = s'.flag

/-- R145: a BUSY engine completes, however many host accesses are put before its completion. R145 gives no bound, only a
finite number of other steps; the bound here, one step more than the agenda holds, is the model's choice of log entry 1 (a
BUSY engine with an empty agenda completes). -/
def Obligations.EveryStartedCommandCompletes : Prop :=
  ∀ s : State, s.phase = .busy →
    (∀ t : Transaction, Event.transaction t ∈ s.agenda → ∃ o, windowOffset t.addr = some o ∧ t.supported o = true) →
    ∃ k ≤ s.agenda.length + 1, ∃ t, run k s = .next t ∧ t.phase = .idle

/-- R52: the only changes of the phase are a start (IDLE to BUSY), a completion (BUSY to IDLE) and a reset. -/
def Obligations.PhaseChangesOnlyAtStartAndCompletion : Prop :=
  ∀ s t : State, step s = .next t →
    (s.phase = .idle → t.phase = .busy →
      ∃ e rest v, s.agenda = .transaction e :: rest ∧ writeTargetOf e = some .cmd ∧ e.access = .write v ∧
        t.latch = latchOperands v s) ∧
    (s.phase = .busy → t.phase = .idle → s.resetsNext = true ∨ ∃ take, completion take s.popAgenda = .next t)

/-- R32: a data register changes only by a reset, by a host write of it while IDLE, or by the completion of a command
that has it as a destination, with an outcome other than ILLEGAL and ABORTED. -/
def Obligations.DataRegistersChangeOnlyWhereTheyMay : Prop :=
  ∀ (s t : State) (k : RegIx), step s = .next t → t.reg k ≠ s.reg k →
    s.resetsNext = true ∨
    (s.phase = .idle ∧ ∃ e rest, s.agenda = .transaction e :: rest ∧ writeTargetOf e = some (.data k) ∧
      e.access = .write (t.reg k)) ∨
    (s.phase = .busy ∧ t.phase = .idle ∧ t.code ≠ .illegal ∧ t.code ≠ .aborted ∧
      ∃ i, latchedInstr s.latch = some i ∧ k ∈ destinations i)

/-- R40: OVR is set exactly by a dropped write and cleared exactly by a write of STATUS with bit 3 = 1 or by a reset. -/
def Obligations.OvrIsStickyAndSetByDroppedWrites : Prop :=
  ∀ s t : State, step s = .next t →
    t.ovr = (s.dropsWriteNext || (s.ovr && !s.clearsOvrNext))

/-- R265: OVR = 0 at the end of a run in which nothing cleared OVR shows that no write was dropped in it. -/
def Obligations.ClearOvrShowsNoWriteWasDropped : Prop :=
  ∀ (k : Nat) (s t : State), run k s = .next t → Along (fun u => u.clearsOvrNext = false) k s → t.ovr = false →
    Along (fun u => u.dropsWriteNext = false) k s

/-! ## Interrupt and reset (`60_exceptions.md`, `70_reset_and_hazards.md`) -/

/-- R233, R236: DONE, the pending bit, is set only by a completion and cleared only by a write of 1 to STATUS bit 1,
by a start or by a reset; so completion interrupts do not nest. -/
def Obligations.DoneIsSetOnlyByCompletion : Prop :=
  ∀ s t : State, step s = .next t →
    (s.done = false → t.done = true →
      s.phase = .busy ∧ t.phase = .idle ∧ ∃ take, completion take s.popAgenda = .next t) ∧
    (s.done = true → t.done = false →
      s.resetsNext = true ∨
      ∃ e rest v, s.agenda = .transaction e :: rest ∧ e.access = .write v ∧
        ((writeTargetOf e = some .status ∧ v[1] = true) ∨ (writeTargetOf e = some .cmd ∧ s.phase = .idle)))

/-- R48, R234: irq is DONE AND IE; a write of CTRL while DONE = 1 raises or lowers it at once and keeps DONE; a
completion raises it where IE = 1; a write of STATUS with bit 1 = 1 lowers it (R236). -/
def Obligations.IrqFollowsDoneAndEnable : Prop :=
  (∀ s : State, s.irq = true ↔ s.done = true ∧ s.ie = true) ∧
  (∀ (s : State) (v : Word) (rest : List Event), s.agenda = wrCtrl v :: rest →
    ∃ t, step s = .next t ∧ t.done = s.done ∧ t.irq = (s.done && v[0])) ∧
  (∀ (s t : State) (take : Bool), completion take s = .next t → t.irq = s.ie) ∧
  (∀ (s : State) (v : Word) (rest : List Event), s.agenda = wrStatus v :: rest → v[1] = true →
    ∃ t, step s = .next t ∧ t.irq = false)

/-- R55, R262: the state after reset, in the values the spec gives. -/
def Obligations.ResetValues : Prop :=
  (∀ k, State.reset.reg k = 0#32) ∧ State.reset.busy = false ∧ State.reset.done = false ∧ State.reset.flag = false ∧
  State.reset.ovr = false ∧ State.reset.code.number = 0#4 ∧ State.reset.ie = false ∧
  readTarget State.reset .id = 0x52534143#32 ∧ State.reset.phase = .idle ∧ State.reset.abortReq = false ∧
  State.reset.latch = ⟨0#32, 0#4, 0, 0#32, 0#32, 0#32⟩ ∧ State.reset.irq = false

/-- R260, R261: a reset step puts every piece of the block's state at its reset value, whatever command was in
progress; that command has no completion, and nothing the host can read shows that it was running. -/
def Obligations.ResetAbandonsTheCommand : Prop :=
  ∀ (s : State) (rest : List Event), s.agenda = .reset :: rest →
    ∃ t, step s = .next t ∧
      (∀ r, readTarget t r = readTarget State.reset r) ∧ t.phase = .idle ∧ t.done = false ∧ t.code = .ok ∧
      t.abortReq = false ∧ t.latch = State.reset.latch ∧ t.irq = false

/-- R41, R38, R39, R141, R221: the invariant of the block's state is kept by every step, from every state that has it.
-/
def Obligations.StepKeepsTheStateInvariant : Prop :=
  ∀ s t : State, s.Inv → step s = .next t → t.Inv

/-- The invariant holds after reset (R55). -/
def Obligations.ResetHasTheStateInvariant : Prop := State.reset.Inv

/-! ## What every command has in common -/

/-- R12, R220: every command, well formed or not and in every state, ends in a next state with BUSY = 0 and DONE = 1. -/
def Obligations.EveryCommandEndsInANextState : Prop :=
  ∀ (i : Instr) (s : State), ∃ t, exec i s = .next t ∧ t.phase = .idle ∧ t.done = true

/-- R32, R144: the frame of ISPRIME, GCD, POWMOD, INV, FACTOR and CLR: nothing changes but their destinations, CODE,
FLAG, BUSY and DONE. No command stores to memory: the window's other registers all read as before. -/
def Obligations.CommandsChangeOnlyTheirDestinations : Prop :=
  ∀ (i : Instr) (s t : State), exec i s = .next t → CompletionFrame (destinations i) s t

/-- R8, an inference the spec draws from its command rules: no result reaches 2^32, so none is cut off when it is
written: GCD, POWMOD, INV and FACTOR on operands below 2^32. -/
def Obligations.EveryResultFitsARegister : Prop :=
  ∀ a b c : Nat, a < 2 ^ 32 → b < 2 ^ 32 → c < 2 ^ 32 →
    gcdFn a b < 2 ^ 32 ∧ (0 < c → powFn a b c < 2 ^ 32) ∧
    (∀ d, invFn a b c = .found d → d < 2 ^ 32) ∧
    (∀ f, factorFn a = some f → f.p < 2 ^ 32 ∧ f.q < 2 ^ 32 ∧ f.t < 2 ^ 32)

/-! ## ISPRIME (`41_isprime.md`) -/

/-- R162, which the spec derives from R161: IsPrimeFn is exact primality. -/
def Obligations.TrialDivisionIsPrimality : Prop :=
  ∀ a : Nat, a < 2 ^ 32 → (isPrimeFn a = true ↔ Nat.Prime a)

/-- R160, with the prime numbers for IsPrimeFn (the spec's derivation R162): ISPRIME writes 1 to RD and sets FLAG when
its operand is prime, else 0 and FLAG 0; CODE is OK. -/
def Obligations.IsprimeWritesPrimality : Prop :=
  ∀ (rd rs1 : RegIx) (s : State),
    ∃ t, exec (.isprime rd rs1) s = .next t ∧
      (Nat.Prime s.latch.a.toNat → t.reg rd = 1#32 ∧ CompletesWith .ok true t) ∧
      (¬Nat.Prime s.latch.a.toNat → t.reg rd = 0#32 ∧ CompletesWith .ok false t) ∧
      CompletionFrame [rd] s t

/-! ## GCD (`42_gcd.md`) -/

/-- R173, which the spec derives from R171: where GcdFn is the mathematical gcd, and where the guard makes it differ. -/
def Obligations.GuardedGcdAgainstTheMathematicalGcd : Prop :=
  ∀ a b : Nat,
    (b < a → gcdFn a b = Nat.gcd a b) ∧ (b = a → gcdFn a b = a ∧ Nat.gcd a b = a) ∧
    (a < b → gcdFn a b = a ∧ (gcdFn a b = Nat.gcd a b ↔ a ∣ b)) ∧
    (0 < b → b < a → gcdFn a b = gcdFn b (a % b))

/-- R170, R171, with the spec's derivation R173: GCD writes a where b >= a (the guard), else the gcd; FLAG is 1
exactly when the result is 1; CODE is OK. -/
def Obligations.GcdWritesTheGuardedGcd : Prop :=
  ∀ (rd rs1 rs2 : RegIx) (s : State),
    ∃ t, exec (.gcd rd rs1 rs2) s = .next t ∧
      (s.latch.a.toNat ≤ s.latch.b.toNat → t.reg rd = s.latch.a) ∧
      (s.latch.b.toNat < s.latch.a.toNat → (t.reg rd).toNat = Nat.gcd s.latch.a.toNat s.latch.b.toNat) ∧
      (∃ f, CompletesWith .ok f t ∧ (f = true ↔ t.reg rd = 1#32)) ∧ CompletionFrame [rd] s t

/-! ## POWMOD (`43_powmod.md`) -/

/-- R185, which the spec derives from R182: square-and-multiply is (b^e) mod m, but for e = 0 with m = 1. -/
def Obligations.SquareAndMultiplyIsThePower : Prop :=
  ∀ b e m : Nat, b < 2 ^ 32 → e < 2 ^ 32 → m < 2 ^ 32 → 1 ≤ m → ¬(e = 0 ∧ m = 1) → powFn b e m = b ^ e % m

/-- R183, which the spec derives from R182: the loop that records its products has the machine's result, every product
it records is below 2^64, and every result is below 2^32. -/
def Obligations.PowerProductsStayBelow64Bits : Prop :=
  ∀ b e m : Nat, b < 2 ^ 32 → e < 2 ^ 32 → 1 ≤ m → m < 2 ^ 32 →
    (powLoopTraced m e 1 b e).1 = powFn b e m ∧
    (∀ x ∈ (powLoopTraced m e 1 b e).2, x ≤ (2 ^ 32 - 1) ^ 2 ∧ x < 2 ^ 64) ∧ powFn b e m < 2 ^ 32

/-- R180, R181, R184, with the power for PowFn (the spec's derivation R185): the three cases of POWMOD. For e = 0 and
m = 1 the value is the open parameter POW_E0_M1, of which only that it is 0 or 1 is said. -/
def Obligations.PowmodWritesThePower : Prop :=
  ∀ (rd rs1 rs2 rs3 : RegIx) (s : State),
    ∃ t, exec (.powmod rd rs1 rs2 rs3) s = .next t ∧
      (s.latch.c = 0#32 → t.reg rd = 0#32 ∧ CompletesWith .zeroModulus false t) ∧
      (s.latch.c = 1#32 → s.latch.b = 0#32 →
        t.reg rd = Config.powE0M1 ∧ (t.reg rd = 0#32 ∨ t.reg rd = 1#32) ∧ CompletesWith .ok true t) ∧
      (s.latch.c ≠ 0#32 → ¬(s.latch.c = 1#32 ∧ s.latch.b = 0#32) →
        (t.reg rd).toNat = s.latch.a.toNat ^ s.latch.b.toNat % s.latch.c.toNat ∧ CompletesWith .ok true t) ∧
      CompletionFrame [rd] s t

/-- R186, which the spec derives from R185: the round trip. With n = p * q for distinct primes p and q, z =
(p-1)(q-1), e coprime with z and d the result INV gives for e, z and n, POWMOD by e and then by d, and by d and then
by e, gives back every message below n, and msg mod n for a message that is not. -/
def Obligations.EncryptThenDecryptIsTheMessage : Prop :=
  ∀ (p q e d msg : Nat), p.Prime → q.Prime → p ≠ q → p * q < 2 ^ 32 → e < 2 ^ 32 → Nat.Coprime e ((p - 1) * (q - 1)) →
    invFn e ((p - 1) * (q - 1)) (p * q) = .found d →
    ∀ (rd rs1 rs2 rs3 : RegIx) (s1 s2 t1 t2 : State) (x y : Nat), (x = e ∧ y = d ∨ x = d ∧ y = e) →
      s1.latch.a.toNat = msg → s1.latch.b.toNat = x → s1.latch.c.toNat = p * q →
      exec (.powmod rd rs1 rs2 rs3) s1 = .next t1 →
      s2.latch.a = t1.reg rd → s2.latch.b.toNat = y → s2.latch.c.toNat = p * q →
      exec (.powmod rd rs1 rs2 rs3) s2 = .next t2 → (t2.reg rd).toNat = msg % (p * q) ∧
        (msg < p * q → (t2.reg rd).toNat = msg)

/-! ## INV (`44_inverse.md`) -/

/-- R190, R191, R196: INV's three cases, by the least i below the bound with e dividing i*z + 1, with the numbers of
their codes; that the quotient fits RD is the spec's R192. -/
def Obligations.InvWritesTheBoundedSearchResult : Prop :=
  ∀ (rd rs1 rs2 rs3 : RegIx) (s : State),
    ∃ t, exec (.inv rd rs1 rs2 rs3) s = .next t ∧
      (s.latch.a = 0#32 → t.reg rd = 0#32 ∧ CompletesWith .divZero false t ∧ t.code.number = 4#4) ∧
      (s.latch.a ≠ 0#32 → (∀ i < s.latch.c.toNat, ¬s.latch.a.toNat ∣ i * s.latch.b.toNat + 1) →
        t.reg rd = 0#32 ∧ CompletesWith .noInverse false t ∧ t.code.number = 3#4) ∧
      (∀ i < s.latch.c.toNat, s.latch.a ≠ 0#32 → s.latch.a.toNat ∣ i * s.latch.b.toNat + 1 →
        (∀ j < i, ¬s.latch.a.toNat ∣ j * s.latch.b.toNat + 1) →
        (t.reg rd).toNat * s.latch.a.toNat = i * s.latch.b.toNat + 1 ∧ CompletesWith .ok true t ∧
          t.code.number = 0#4) ∧
      CompletionFrame [rd] s t

/-- R193, which the spec derives from R191 and R192: the extended-Euclidean datapath gives the search's result on
every operand triple, failures and bound included. -/
def Obligations.EuclideanInverseEqualsTheSearch : Prop :=
  ∀ e z n : Nat, e < 2 ^ 32 → z < 2 ^ 32 → n < 2 ^ 32 → invByEuclid e z n = invFn e z n

/-- R195, which the spec derives from R191: the corner cases of InvFn. For 1 <= e <= n, z >= 2 and e coprime with z,
INV finds the one d in [1, z - 1] with d * e mod z = 1; where e > n it finds a d only if the search's least i is below
n; for e and z not coprime it finds none, whatever n is. -/
def Obligations.InvCornerCases : Prop :=
  (∀ z n, invFn 0 z n = .divZero) ∧
  (∀ z n, 1 ≤ n → invFn 1 z n = .found 1) ∧ (∀ z, invFn 1 z 0 = .none) ∧
  (∀ e n, 2 ≤ e → invFn e 0 n = .none) ∧
  (∀ e n, 2 ≤ e → e ≤ n → invFn e 1 n = .found 1) ∧ (∀ e n, 2 ≤ e → n < e → invFn e 1 n = .none) ∧
  (∀ e z n, e ≠ 0 → 1 < Nat.gcd e z → invFn e z n = .none) ∧
  (∀ e z n, 1 ≤ e → e ≤ n → 2 ≤ z → Nat.Coprime e z →
    ∃ d, invFn e z n = .found d ∧ 1 ≤ d ∧ d ≤ z - 1 ∧ d * e % z = 1 ∧ ∀ d', d' < z → d' * e % z = 1 → d' = d) ∧
  (∀ e z n, n < e → Nat.Coprime e z →
    ∃ i < e, e ∣ i * z + 1 ∧ (∀ j < i, ¬e ∣ j * z + 1) ∧
      (i < n → invFn e z n = .found ((i * z + 1) / e)) ∧ (n ≤ i → invFn e z n = .none))

/-! ## FACTOR (`45_factor.md`) -/

/-- R206, which the spec derives from R202 to R204: what FactorFn finds, by s = isqrt(n), the largest root not above
it. -/
def Obligations.FactorFindsTheLargestOddPrimeDivisor : Prop :=
  (∀ n s : Nat, n < 2 ^ 32 → s * s ≤ n → n < (s + 1) * (s + 1) →
    (s ≤ 1 → factorFn n = none) ∧
    (s = 2 → n % 2 = 0 → factorFn n = some ⟨2, n / 2, n / 2 - 1⟩) ∧
    (s = 2 → n % 2 = 1 → factorFn n = none) ∧
    (∀ p, 3 ≤ s → p.Prime → p % 2 = 1 → p ∣ n → p ≤ s → (∀ r, r.Prime → r ∣ n → r ≤ s → r ≤ p) →
      factorFn n = some ⟨p, n / p, (p - 1) * (n / p - 1)⟩) ∧
    (3 ≤ s → (∀ p, p.Prime → p % 2 = 1 → p ∣ n → s < p) → factorFn n = none)) ∧
  (∀ p q : Nat, p.Prime → q.Prime → p % 2 = 1 → q % 2 = 1 → p ≤ q → p * q < 2 ^ 32 →
    factorFn (p * q) = some ⟨p, q, (p - 1) * (q - 1)⟩)

/-- R200, R204, R205: where FACTOR finds a factor, RD is a prime p at most isqrt(n), RD+1 is q with p * q = n and RD+2
is (p - 1)(q - 1), with FLAG 1 and OK; else all three are 0, with FLAG 0 and FACTOR_FAIL. RD is 0 to 5; FACTOR with RD
6 or 7 is no command (R107), and `exec` ends it with ILLEGAL: the model's choice, log entry 14. -/
def Obligations.FactorWritesThreeRegisters : Prop :=
  ∀ (rd rs1 : RegIx) (s : State),
    (rd.val ≤ 5 → ∃ t, exec (.factor rd rs1) s = .next t ∧
      (∀ f, factorFn s.latch.a.toNat = some f →
        CompletesWith .ok true t ∧ (t.reg rd).toNat = f.p ∧ (t.reg (rd + 1)).toNat = f.q ∧
        (t.reg (rd + 2)).toNat = f.t ∧ Nat.Prime f.p ∧ f.p * f.p ≤ s.latch.a.toNat ∧
        f.p * f.q = s.latch.a.toNat ∧ f.t = (f.p - 1) * (f.q - 1)) ∧
      (factorFn s.latch.a.toNat = none →
        CompletesWith .factorFail false t ∧ t.reg rd = 0#32 ∧ t.reg (rd + 1) = 0#32 ∧ t.reg (rd + 2) = 0#32) ∧
      CompletionFrame [rd, rd + 1, rd + 2] s t) ∧
    (5 < rd.val → ∃ t, exec (.factor rd rs1) s = .next t ∧ CompletesWith .illegal false t ∧
      CompletionFrame [] s t)

/-! ## CLR (`46_clear.md`) -/

/-- R215: CLR writes 0 to D0 to D7, sets FLAG to 1 and CODE to OK, and touches neither OVR nor IE nor ID. -/
def Obligations.ClrClearsEveryDataRegister : Prop :=
  ∀ s : State, ∃ t, exec .clr s = .next t ∧ (∀ k, t.reg k = 0#32) ∧ CompletesWith .ok true t ∧
    t.ovr = s.ovr ∧ t.ie = s.ie ∧ readTarget t .id = readTarget s .id ∧
    CompletionFrame [0, 1, 2, 3, 4, 5, 6, 7] s t

/-! ## FLAG, CODE and the idle engine over every step -/

/-- R39, R41, R267: FLAG and CODE change only by a start, which makes both 0, by the completion of a BUSY engine, or by a
reset. -/
def Obligations.FlagAndCodeChangeOnlyAtStartAndCompletion : Prop :=
  ∀ s t : State, step s = .next t → t.flag ≠ s.flag ∨ t.code ≠ s.code →
    s.resetsNext = true ∨
    (s.phase = .busy ∧ t.phase = .idle ∧ ∃ take, completion take s.popAgenda = .next t) ∨
    (s.phase = .idle ∧ t.phase = .busy ∧ t.flag = false ∧ t.code = .ok ∧
      ∃ e rest v, s.agenda = .transaction e :: rest ∧ writeTargetOf e = some .cmd ∧ e.access = .write v)

/-- R140, R242, by the agenda of log entry 1: a completion entry met while IDLE is passed over and an IDLE engine with an
empty agenda does nothing; both leave every field of the block as it was. -/
def Obligations.IdleEngineDoesNothingByItself : Prop :=
  (∀ (s : State) (take : Bool) (rest : List Event), s.phase = .idle → s.agenda = .completion take :: rest →
    step s = .next { s with agenda := rest }) ∧
  (∀ s : State, s.phase = .idle → s.agenda = [] → step s = .next s)
end

