-- ==== Sys2Proof/Laws/Encoding.lean ====
section
/-! SUPPORT. The fields of an encoded word (`30_encoding.md` R101, R102). -/

namespace Sys2Proof

theorem enc_toNat (op : Nat) (rd rs1 rs2 rs3 : RegIx) (h : op < 16) : (enc op rd rs1 rs2 rs3).toNat =
    op + rd.val * 256 + rs1.val * 4096 + rs2.val * 65536 + rs3.val * 1048576 := by
  rw [enc, BitVec.toNat_ofNat, Nat.mod_eq_of_lt] <;> norm_num
  omega

theorem opField_toNat (w : Word) : (opField w).toNat = w.toNat % 16 := by
  simp [opField, BitVec.extractLsb_toNat]

theorem rdField_val (w : Word) : (rdField w).val = w.toNat / 256 % 8 := by
  have h : (rdField w).val = (w.extractLsb 10 8).toNat := rfl
  rw [h, BitVec.extractLsb_toNat, Nat.shiftRight_eq_div_pow]

theorem rs1Field_val (w : Word) : (rs1Field w).val = w.toNat / 4096 % 8 := by
  have h : (rs1Field w).val = (w.extractLsb 14 12).toNat := rfl
  rw [h, BitVec.extractLsb_toNat, Nat.shiftRight_eq_div_pow]

theorem rs2Field_val (w : Word) : (rs2Field w).val = w.toNat / 65536 % 8 := by
  have h : (rs2Field w).val = (w.extractLsb 18 16).toNat := rfl
  rw [h, BitVec.extractLsb_toNat, Nat.shiftRight_eq_div_pow]

theorem rs3Field_val (w : Word) : (rs3Field w).val = w.toNat / 1048576 % 8 := by
  have h : (rs3Field w).val = (w.extractLsb 22 20).toNat := rfl
  rw [h, BitVec.extractLsb_toNat, Nat.shiftRight_eq_div_pow]

theorem opField_enc (op : Nat) (rd rs1 rs2 rs3 : RegIx) (h : op < 16) :
    opField (enc op rd rs1 rs2 rs3) = BitVec.ofNat 4 op := by
  apply BitVec.eq_of_toNat_eq
  rw [opField_toNat, enc_toNat op rd rs1 rs2 rs3 h, BitVec.toNat_ofNat]
  omega

theorem rdField_enc (op : Nat) (rd rs1 rs2 rs3 : RegIx) (h : op < 16) :
    rdField (enc op rd rs1 rs2 rs3) = rd := by
  apply Fin.ext
  rw [rdField_val, enc_toNat op rd rs1 rs2 rs3 h]
  omega

theorem rs1Field_enc (op : Nat) (rd rs1 rs2 rs3 : RegIx) (h : op < 16) :
    rs1Field (enc op rd rs1 rs2 rs3) = rs1 := by
  apply Fin.ext
  rw [rs1Field_val, enc_toNat op rd rs1 rs2 rs3 h]
  omega

theorem rs2Field_enc (op : Nat) (rd rs1 rs2 rs3 : RegIx) (h : op < 16) :
    rs2Field (enc op rd rs1 rs2 rs3) = rs2 := by
  apply Fin.ext
  rw [rs2Field_val, enc_toNat op rd rs1 rs2 rs3 h]
  omega

theorem rs3Field_enc (op : Nat) (rd rs1 rs2 rs3 : RegIx) (h : op < 16) :
    rs3Field (enc op rd rs1 rs2 rs3) = rs3 := by
  apply Fin.ext
  rw [rs3Field_val, enc_toNat op rd rs1 rs2 rs3 h]
  omega

theorem reservedBitsZero_iff (w : Word) : reservedBitsZero w = true ↔
    w.toNat / 16 % 16 = 0 ∧ w.toNat / 2048 % 2 = 0 ∧ w.toNat / 32768 % 2 = 0 ∧ w.toNat / 524288 % 2 = 0 ∧
      w.toNat / 8388608 % 512 = 0 := by
  simp only [reservedBitsZero, Bool.and_eq_true, beq_iff_eq, BitVec.toNat_eq, BitVec.extractLsb_toNat,
    Nat.shiftRight_eq_div_pow, and_assoc]
  rfl

theorem reservedBitsZero_enc (op : Nat) (rd rs1 rs2 rs3 : RegIx) (h : op < 16) :
    reservedBitsZero (enc op rd rs1 rs2 rs3) = true := by
  rw [reservedBitsZero_iff, enc_toNat op rd rs1 rs2 rs3 h]
  omega

theorem decode_of_reservedBitsZero {w : Word} (h : reservedBitsZero w = true) :
    decode w = decodeFields (opField w) (rdField w) (rs1Field w) (rs2Field w) (rs3Field w) := by
  simp [decode, h]

/-- What a word that decodes looks like: one case per row of R105. -/
theorem decode_cases {w : Word} {i : Instr} (h : decode w = .ok i) : reservedBitsZero w = true ∧
    (((opField w).toNat = 1 ∧ rs2Field w = 0 ∧ rs3Field w = 0 ∧ i = .isprime (rdField w) (rs1Field w)) ∨
    ((opField w).toNat = 2 ∧ rs3Field w = 0 ∧ i = .gcd (rdField w) (rs1Field w) (rs2Field w)) ∨
    ((opField w).toNat = 3 ∧ i = .powmod (rdField w) (rs1Field w) (rs2Field w) (rs3Field w)) ∨
    ((opField w).toNat = 4 ∧ i = .inv (rdField w) (rs1Field w) (rs2Field w) (rs3Field w)) ∨
    ((opField w).toNat = 5 ∧ rs2Field w = 0 ∧ rs3Field w = 0 ∧ factorDestinationOk (rdField w) = true ∧
      i = .factor (rdField w) (rs1Field w)) ∨
    ((opField w).toNat = 6 ∧ rdField w = 0 ∧ rs1Field w = 0 ∧ rs2Field w = 0 ∧ rs3Field w = 0 ∧ i = .clr)) := by
  unfold decode at h
  split at h
  · rename_i hr
    refine ⟨hr, ?_⟩
    unfold decodeFields at h
    split at h
    all_goals first | (split at h <;> (try split at h)) | skip
    all_goals first | (cases h; done) | skip
    all_goals (cases h; simp_all)
  · cases h

end Sys2Proof
end

