-- ==== Sys2Proof/Laws/Loops.lean ====
section
/-! SUPPORT. One lemma per loop of the number-theory units: what it answers, with the number of iterations its
definition allows. -/

namespace Sys2Proof.Machine

/-! ## isqrt -/

theorem isqrtBits_spec (a : Nat) : ∀ n r, r * r ≤ a → a < (r + 2 ^ n) * (r + 2 ^ n) →
    isqrtBits a n r * isqrtBits a n r ≤ a ∧ a < (isqrtBits a n r + 1) * (isqrtBits a n r + 1)
  | 0, r, hl, hu => ⟨hl, by simpa [isqrtBits] using hu⟩
  | n + 1, r, hl, hu => by
    rw [isqrtBits]
    split
    · rename_i h
      exact isqrtBits_spec a n _ h (by rw [pow_succ] at hu; convert hu using 2 <;> ring)
    · rename_i h
      exact isqrtBits_spec a n r hl (Nat.lt_of_not_le h)

/-- `isqrt(a)` is the largest natural r with r * r <= a (R10). -/
theorem isqrt_spec (a : Nat) : isqrt a * isqrt a ≤ a ∧ a < (isqrt a + 1) * (isqrt a + 1) := by
  refine isqrtBits_spec a _ 0 (by simp) ?_
  have h1 : a < 2 ^ (a.log2 + 1) := Nat.lt_log2_self
  have h2 : 2 ^ (a.log2 + 1) ≤ 2 ^ ((a.log2 / 2 + 1) + (a.log2 / 2 + 1)) :=
    Nat.pow_le_pow_right (by norm_num) (by omega)
  rw [pow_add 2 (a.log2 / 2 + 1)] at h2
  rw [Nat.zero_add]
  exact lt_of_lt_of_le h1 h2

theorem isqrt_eq_sqrt (a : Nat) : isqrt a = Nat.sqrt a :=
  Nat.eq_sqrt.2 (isqrt_spec a)

/-! ## Trial division -/

theorem trialDivision_iff (a r : Nat) : ∀ n k, trialDivision a r n k = true ↔
    ∀ j < n, k + 2 * j ≤ r → a % (k + 2 * j) ≠ 0
  | 0, k => by simp [trialDivision]
  | n + 1, k => by
    rw [trialDivision]
    split
    · rename_i hk
      split
      · rename_i h0
        simp only [Bool.false_eq_true, false_iff, not_forall]
        exact ⟨0, by omega, by simpa using hk, by simpa using h0⟩
      · rename_i h0
        rw [trialDivision_iff a r n (k + 2)]
        constructor
        · intro h j hj hr
          cases j with
          | zero => simpa using h0
          | succ j =>
            have e : k + 2 * (j + 1) = k + 2 + 2 * j := by ring
            rw [e] at hr ⊢
            exact h j (by omega) hr
        · intro h j hj hr
          have e : k + 2 + 2 * j = k + 2 * (j + 1) := by ring
          rw [e] at hr ⊢
          exact h (j + 1) (by omega) hr
    · rename_i hk
      simp only [true_iff]
      intro j _ hr
      omega

/-! ## The Euclidean loop -/

theorem euclid_eq_gcd : ∀ n a b, b ≤ n → euclid n a b = Nat.gcd a b
  | 0, a, b, h => by
    have : b = 0 := by omega
    simp [euclid, this]
  | n + 1, a, b, h => by
    rw [euclid]
    split
    · rename_i hb; simp [hb]
    · rename_i hb
      have hlt : a % b < b := Nat.mod_lt _ (by omega)
      rw [euclid_eq_gcd n b (a % b) (by omega), Nat.gcd_comm a b, Nat.gcd_rec b a, Nat.gcd_comm]

/-! ## Square-and-multiply -/

/-- The loop invariant of R185, `r * s^k`, at a positive exponent. -/
theorem powLoop_eq (m : Nat) : ∀ n r s k, k ≤ n → 0 < k → powLoop m n r s k = r * s ^ k % m
  | 0, _, _, _, h, h0 => by omega
  | n + 1, r, s, k, h, h0 => by
    rw [powLoop, if_pos h0]
    have hk : k = 2 * (k / 2) + k % 2 := by omega
    have hs : s ^ k = (s * s) ^ (k / 2) * s ^ (k % 2) := by
      conv_lhs => rw [hk, pow_add, pow_mul, pow_two]
    rcases Nat.eq_zero_or_pos (k / 2) with hz | hp
    · have h1 : k % 2 = 1 := by omega
      have h2 : k = 1 := by omega
      subst h2
      cases n <;> simp [powLoop]
    · rw [powLoop_eq m n _ _ _ (by omega) hp, hs]
      rcases Nat.mod_two_eq_zero_or_one k with h2 | h2
      · simp [h2, Nat.mul_mod, Nat.pow_mod]
      · simp only [h2, if_true, pow_one]
        rw [Nat.mul_mod, Nat.mod_mod, Nat.pow_mod, Nat.mod_mod, ← Nat.pow_mod, ← Nat.mul_mod]
        congr 1
        ring

/-! ## INV's search -/

theorem invSearch_cases (e z : Nat) : ∀ n i,
    (invSearch e z n i = .none ∧ ∀ j < n, ((i + j) * z + 1) % e ≠ 0) ∨
    ∃ j < n, ((i + j) * z + 1) % e = 0 ∧ (∀ k < j, ((i + k) * z + 1) % e ≠ 0) ∧
      invSearch e z n i = .found (((i + j) * z + 1) / e)
  | 0, i => .inl ⟨rfl, by simp⟩
  | n + 1, i => by
    rw [invSearch]
    split
    · rename_i h
      exact .inr ⟨0, by omega, by simpa using h, by simp, by simp⟩
    · rename_i h
      have shift : ∀ j, i + 1 + j = i + (j + 1) := by intro j; omega
      rcases invSearch_cases e z n (i + 1) with ⟨h1, h2⟩ | ⟨j, hj, h1, h2, h3⟩
      · refine .inl ⟨h1, fun j hj => ?_⟩
        cases j with
        | zero => simpa using h
        | succ j => rw [← shift]; exact h2 j (by omega)
      · refine .inr ⟨j + 1, by omega, by rw [← shift]; exact h1, fun k hk => ?_, by rw [← shift j]; exact h3⟩
        cases k with
        | zero => simpa using h
        | succ k => rw [← shift]; exact h2 k (by omega)

/-! ## FACTOR's scans -/

theorem scanPrime_eq_some {p : Nat} : ∀ {c : Nat}, scanPrime c = some p →
    isPrimeFn p = true ∧ 2 ≤ p ∧ p ≤ c ∧ ∀ q, p < q → q ≤ c → isPrimeFn q = false
  | 0, h => by simp [scanPrime] at h
  | 1, h => by simp [scanPrime] at h
  | c + 2, h => by
    rw [scanPrime] at h
    split at h
    · rename_i hp
      cases h
      exact ⟨hp, by omega, le_rfl, fun q h1 h2 => by omega⟩
    · rename_i hp
      obtain ⟨h1, h2, h3, h4⟩ := scanPrime_eq_some h
      refine ⟨h1, h2, by omega, fun q hq hc => ?_⟩
      rcases Nat.lt_or_ge q (c + 2) with hlt | hge
      · exact h4 q hq (by omega)
      · have : q = c + 2 := by omega
        simpa [this] using hp

theorem scanPrime_eq_none : ∀ {c : Nat}, scanPrime c = none → ∀ q, 2 ≤ q → q ≤ c → isPrimeFn q = false
  | 0, _, q, h1, h2 => by omega
  | 1, _, q, h1, h2 => by omega
  | c + 2, h, q, h1, h2 => by
    rw [scanPrime] at h
    split at h
    · cases h
    · rename_i hp
      rcases Nat.lt_or_ge q (c + 2) with hlt | hge
      · exact scanPrime_eq_none h q h1 (by omega)
      · have : q = c + 2 := by omega
        simpa [this] using hp

theorem scanDivisor_eq_some {n p : Nat} : ∀ {k : Nat}, scanDivisor n k = some p →
    isPrimeFn p = true ∧ n % p = 0 ∧ 2 ≤ p ∧ p ≤ k ∧ p % 2 = k % 2 ∧
      ∀ q, p < q → q ≤ k → q % 2 = k % 2 → ¬(isPrimeFn q = true ∧ n % q = 0)
  | 0, h => by simp [scanDivisor] at h
  | 1, h => by simp [scanDivisor] at h
  | k + 2, h => by
    rw [scanDivisor] at h
    split at h
    · rename_i hp
      cases h
      exact ⟨hp.1, hp.2, by omega, le_rfl, rfl, fun q h1 h2 => by omega⟩
    · rename_i hp
      obtain ⟨h1, h2, h3, h4, h5, h6⟩ := scanDivisor_eq_some h
      refine ⟨h1, h2, h3, by omega, by omega, fun q hq hk hpar => ?_⟩
      rcases Nat.lt_or_ge q (k + 2) with hlt | hge
      · exact h6 q hq (by omega) (by omega)
      · have : q = k + 2 := by omega
        rw [this]; exact hp

theorem scanDivisor_eq_none {n : Nat} : ∀ {k : Nat}, scanDivisor n k = none →
    ∀ q, 2 ≤ q → q ≤ k → q % 2 = k % 2 → ¬(isPrimeFn q = true ∧ n % q = 0)
  | 0, _, q, h1, h2, _ => by omega
  | 1, _, q, h1, h2, _ => by omega
  | k + 2, h, q, h1, h2, hpar => by
    rw [scanDivisor] at h
    split at h
    · cases h
    · rename_i hp
      rcases Nat.lt_or_ge q (k + 2) with hlt | hge
      · exact scanDivisor_eq_none h q h1 (by omega) (by omega)
      · have : q = k + 2 := by omega
        rw [this]; exact hp

end Sys2Proof.Machine
end

