-- ==== Sys2Proof/Laws/State.lean ====
section
/-! SUPPORT. One lemma per field and update of State, true by rfl, so that no later proof unfolds a record update. -/

namespace Sys2Proof.Machine

/-! `finish` -/

@[simp] theorem finish_regs (f : Finish) (s : State) : (finish f s).regs = applyWrites s.regs f.writes := rfl
@[simp] theorem finish_phase (f : Finish) (s : State) : (finish f s).phase = .idle := rfl
@[simp] theorem finish_done (f : Finish) (s : State) : (finish f s).done = true := rfl
@[simp] theorem finish_flag (f : Finish) (s : State) : (finish f s).flag = f.flag := rfl
@[simp] theorem finish_ovr (f : Finish) (s : State) : (finish f s).ovr = s.ovr := rfl
@[simp] theorem finish_code (f : Finish) (s : State) : (finish f s).code = f.code := rfl
@[simp] theorem finish_ie (f : Finish) (s : State) : (finish f s).ie = s.ie := rfl
@[simp] theorem finish_abortReq (f : Finish) (s : State) : (finish f s).abortReq = s.abortReq := rfl
@[simp] theorem finish_latch (f : Finish) (s : State) : (finish f s).latch = s.latch := rfl
@[simp] theorem finish_agenda (f : Finish) (s : State) : (finish f s).agenda = s.agenda := rfl
@[simp] theorem finish_finalAbort (f : Finish) (s : State) : (finish f s).finalAbort = s.finalAbort := rfl
@[simp] theorem finish_response (f : Finish) (s : State) : (finish f s).response = s.response := rfl

/-! `start` -/

@[simp] theorem start_regs (w : Word) (s : State) : (start w s).regs = s.regs := rfl
@[simp] theorem start_phase (w : Word) (s : State) : (start w s).phase = .busy := rfl
@[simp] theorem start_done (w : Word) (s : State) : (start w s).done = false := rfl
@[simp] theorem start_flag (w : Word) (s : State) : (start w s).flag = false := rfl
@[simp] theorem start_ovr (w : Word) (s : State) : (start w s).ovr = s.ovr := rfl
@[simp] theorem start_code (w : Word) (s : State) : (start w s).code = .ok := rfl
@[simp] theorem start_ie (w : Word) (s : State) : (start w s).ie = s.ie := rfl
@[simp] theorem start_abortReq (w : Word) (s : State) : (start w s).abortReq = false := rfl
@[simp] theorem start_latch (w : Word) (s : State) : (start w s).latch = latchOperands w s := rfl
@[simp] theorem start_agenda (w : Word) (s : State) : (start w s).agenda = s.agenda := rfl
@[simp] theorem start_finalAbort (w : Word) (s : State) : (start w s).finalAbort = s.finalAbort := rfl
@[simp] theorem start_response (w : Word) (s : State) : (start w s).response = s.response := rfl

/-! `resetBlock` -/

@[simp] theorem resetBlock_regs (s : State) : (resetBlock s).regs = State.reset.regs := rfl
@[simp] theorem resetBlock_phase (s : State) : (resetBlock s).phase = State.reset.phase := rfl
@[simp] theorem resetBlock_done (s : State) : (resetBlock s).done = State.reset.done := rfl
@[simp] theorem resetBlock_flag (s : State) : (resetBlock s).flag = State.reset.flag := rfl
@[simp] theorem resetBlock_ovr (s : State) : (resetBlock s).ovr = State.reset.ovr := rfl
@[simp] theorem resetBlock_code (s : State) : (resetBlock s).code = State.reset.code := rfl
@[simp] theorem resetBlock_ie (s : State) : (resetBlock s).ie = State.reset.ie := rfl
@[simp] theorem resetBlock_abortReq (s : State) : (resetBlock s).abortReq = State.reset.abortReq := rfl
@[simp] theorem resetBlock_latch (s : State) : (resetBlock s).latch = State.reset.latch := rfl
@[simp] theorem resetBlock_agenda (s : State) : (resetBlock s).agenda = s.agenda := rfl
@[simp] theorem resetBlock_finalAbort (s : State) : (resetBlock s).finalAbort = s.finalAbort := rfl
@[simp] theorem resetBlock_response (s : State) : (resetBlock s).response = State.reset.response := rfl

/-! `dropWrite` -/

@[simp] theorem dropWrite_regs (s : State) : (dropWrite s).regs = s.regs := rfl
@[simp] theorem dropWrite_phase (s : State) : (dropWrite s).phase = s.phase := rfl
@[simp] theorem dropWrite_done (s : State) : (dropWrite s).done = s.done := rfl
@[simp] theorem dropWrite_flag (s : State) : (dropWrite s).flag = s.flag := rfl
@[simp] theorem dropWrite_ovr (s : State) : (dropWrite s).ovr = true := rfl
@[simp] theorem dropWrite_code (s : State) : (dropWrite s).code = s.code := rfl
@[simp] theorem dropWrite_ie (s : State) : (dropWrite s).ie = s.ie := rfl
@[simp] theorem dropWrite_abortReq (s : State) : (dropWrite s).abortReq = s.abortReq := rfl
@[simp] theorem dropWrite_latch (s : State) : (dropWrite s).latch = s.latch := rfl
@[simp] theorem dropWrite_agenda (s : State) : (dropWrite s).agenda = s.agenda := rfl
@[simp] theorem dropWrite_finalAbort (s : State) : (dropWrite s).finalAbort = s.finalAbort := rfl
@[simp] theorem dropWrite_response (s : State) : (dropWrite s).response = s.response := rfl

/-! `writeStatus` -/

@[simp] theorem writeStatus_regs (v : Word) (s : State) : (writeStatus v s).regs = s.regs := rfl
@[simp] theorem writeStatus_phase (v : Word) (s : State) : (writeStatus v s).phase = s.phase := rfl
@[simp] theorem writeStatus_done (v : Word) (s : State) : (writeStatus v s).done = (s.done && !v[1]) := rfl
@[simp] theorem writeStatus_flag (v : Word) (s : State) : (writeStatus v s).flag = s.flag := rfl
@[simp] theorem writeStatus_ovr (v : Word) (s : State) : (writeStatus v s).ovr = (s.ovr && !v[3]) := rfl
@[simp] theorem writeStatus_code (v : Word) (s : State) : (writeStatus v s).code = s.code := rfl
@[simp] theorem writeStatus_ie (v : Word) (s : State) : (writeStatus v s).ie = s.ie := rfl
@[simp] theorem writeStatus_abortReq (v : Word) (s : State) : (writeStatus v s).abortReq = s.abortReq := rfl
@[simp] theorem writeStatus_latch (v : Word) (s : State) : (writeStatus v s).latch = s.latch := rfl
@[simp] theorem writeStatus_agenda (v : Word) (s : State) : (writeStatus v s).agenda = s.agenda := rfl
@[simp] theorem writeStatus_finalAbort (v : Word) (s : State) : (writeStatus v s).finalAbort = s.finalAbort := rfl
@[simp] theorem writeStatus_response (v : Word) (s : State) : (writeStatus v s).response = s.response := rfl

/-! `writeCtrl` -/

@[simp] theorem writeCtrl_regs (v : Word) (s : State) : (writeCtrl v s).regs = s.regs := rfl
@[simp] theorem writeCtrl_phase (v : Word) (s : State) : (writeCtrl v s).phase = s.phase := rfl
@[simp] theorem writeCtrl_done (v : Word) (s : State) : (writeCtrl v s).done = s.done := rfl
@[simp] theorem writeCtrl_flag (v : Word) (s : State) : (writeCtrl v s).flag = s.flag := rfl
@[simp] theorem writeCtrl_ovr (v : Word) (s : State) : (writeCtrl v s).ovr = s.ovr := rfl
@[simp] theorem writeCtrl_code (v : Word) (s : State) : (writeCtrl v s).code = s.code := rfl
@[simp] theorem writeCtrl_ie (v : Word) (s : State) : (writeCtrl v s).ie = v[0] := rfl
@[simp] theorem writeCtrl_abortReq (v : Word) (s : State) : (writeCtrl v s).abortReq = (s.abortReq || (v[1] && s.busy)) := rfl
@[simp] theorem writeCtrl_latch (v : Word) (s : State) : (writeCtrl v s).latch = s.latch := rfl
@[simp] theorem writeCtrl_agenda (v : Word) (s : State) : (writeCtrl v s).agenda = s.agenda := rfl
@[simp] theorem writeCtrl_finalAbort (v : Word) (s : State) : (writeCtrl v s).finalAbort = s.finalAbort := rfl
@[simp] theorem writeCtrl_response (v : Word) (s : State) : (writeCtrl v s).response = s.response := rfl

/-! `loadCommand` -/

@[simp] theorem loadCommand_regs (w : Word) (s : State) : (loadCommand w s).regs = s.regs := rfl
@[simp] theorem loadCommand_phase (w : Word) (s : State) : (loadCommand w s).phase = .busy := rfl
@[simp] theorem loadCommand_done (w : Word) (s : State) : (loadCommand w s).done = false := rfl
@[simp] theorem loadCommand_flag (w : Word) (s : State) : (loadCommand w s).flag = false := rfl
@[simp] theorem loadCommand_ovr (w : Word) (s : State) : (loadCommand w s).ovr = s.ovr := rfl
@[simp] theorem loadCommand_code (w : Word) (s : State) : (loadCommand w s).code = .ok := rfl
@[simp] theorem loadCommand_ie (w : Word) (s : State) : (loadCommand w s).ie = s.ie := rfl
@[simp] theorem loadCommand_abortReq (w : Word) (s : State) : (loadCommand w s).abortReq = false := rfl
@[simp] theorem loadCommand_latch (w : Word) (s : State) : (loadCommand w s).latch = latchOperands w s := rfl
@[simp] theorem loadCommand_agenda (w : Word) (s : State) : (loadCommand w s).agenda = completionFirst s.agenda := rfl
@[simp] theorem loadCommand_finalAbort (w : Word) (s : State) : (loadCommand w s).finalAbort = s.finalAbort := rfl
@[simp] theorem loadCommand_response (w : Word) (s : State) : (loadCommand w s).response = s.response := rfl

/-! `popAgenda` -/

@[simp] theorem popAgenda_regs (s : State) : (s.popAgenda).regs = s.regs := rfl
@[simp] theorem popAgenda_phase (s : State) : (s.popAgenda).phase = s.phase := rfl
@[simp] theorem popAgenda_done (s : State) : (s.popAgenda).done = s.done := rfl
@[simp] theorem popAgenda_flag (s : State) : (s.popAgenda).flag = s.flag := rfl
@[simp] theorem popAgenda_ovr (s : State) : (s.popAgenda).ovr = s.ovr := rfl
@[simp] theorem popAgenda_code (s : State) : (s.popAgenda).code = s.code := rfl
@[simp] theorem popAgenda_ie (s : State) : (s.popAgenda).ie = s.ie := rfl
@[simp] theorem popAgenda_abortReq (s : State) : (s.popAgenda).abortReq = s.abortReq := rfl
@[simp] theorem popAgenda_latch (s : State) : (s.popAgenda).latch = s.latch := rfl
@[simp] theorem popAgenda_agenda (s : State) : (s.popAgenda).agenda = s.agenda.tail := rfl
@[simp] theorem popAgenda_finalAbort (s : State) : (s.popAgenda).finalAbort = s.finalAbort := rfl
@[simp] theorem popAgenda_response (s : State) : (s.popAgenda).response = s.response := rfl

/-! Reading a register, the phase and the outputs after an update of other fields -/

theorem busy_iff (s : State) : s.busy = true ↔ s.phase = .busy := by
  cases h : s.phase <;> simp [State.busy, h]

theorem not_busy_iff (s : State) : s.busy = false ↔ s.phase = .idle := by
  cases h : s.phase <;> simp [State.busy, h]

theorem busy_congr {s t : State} (h : s.phase = t.phase) : s.busy = t.busy := by
  simp [State.busy, h]

theorem reg_congr {s t : State} (h : s.regs = t.regs) (k : RegIx) : s.reg k = t.reg k := by
  simp [State.reg, h]

theorem statusWord_congr {s t : State} (hp : s.phase = t.phase) (hd : s.done = t.done) (hf : s.flag = t.flag)
    (ho : s.ovr = t.ovr) (hc : s.code = t.code) : s.statusWord = t.statusWord := by
  simp [State.statusWord, busy_congr hp, hd, hf, ho, hc]

@[simp] theorem start_busy (w : Word) (s : State) : (start w s).busy = true := rfl
@[simp] theorem finish_busy (f : Finish) (s : State) : (finish f s).busy = false := rfl
@[simp] theorem resetBlock_busy (s : State) : (resetBlock s).busy = false := rfl
@[simp] theorem start_reg (w : Word) (s : State) (k : RegIx) : (start w s).reg k = s.reg k := rfl
@[simp] theorem dropWrite_reg (s : State) (k : RegIx) : (dropWrite s).reg k = s.reg k := rfl
@[simp] theorem writeStatus_reg (v : Word) (s : State) (k : RegIx) : (writeStatus v s).reg k = s.reg k := rfl
@[simp] theorem writeCtrl_reg (v : Word) (s : State) (k : RegIx) : (writeCtrl v s).reg k = s.reg k := rfl

theorem reg_set (s : State) (k j : RegIx) (v : Word) :
    State.reg { s with regs := s.regs.set k v } j = if k = j then v else s.reg j := by
  simp [State.reg, Vector.getElem_set, Fin.ext_iff]

@[simp] theorem reset_reg (k : RegIx) : State.reset.reg k = 0#32 := by
  simp [State.reg, State.reset]

end Sys2Proof.Machine
end

