-- ==== Sys2Proof/Laws/Ops.lean ====
section
/-! SUPPORT. What each shared operation can do, said once: the writes of a completion, the window's addresses, the
answers of the block, and the inversion of `exec`, `completion`, `hostStep` and `step`. -/

namespace Sys2Proof.Machine

/-! ## The writes of a completion -/

/-- A register no write names keeps its value. -/
theorem applyWrites_other (k : RegIx) :
    ∀ (ws : List (RegIx × Word)) (regs : Vector Word 8), (∀ p ∈ ws, p.1 ≠ k) → (applyWrites regs ws)[k] = regs[k]
  | [], _, _ => rfl
  | (j, v) :: ws, regs, h => by
    have hj : j ≠ k := h (j, v) (by simp)
    rw [applyWrites, applyWrites_other k ws _ fun p hp => h p (by simp [hp])]
    have : (j : Nat) ≠ k := fun e => hj (Fin.ext e)
    simp [this]

/-- A register that exactly one write names takes that write's value. -/
theorem applyWrites_mem (k : RegIx) (v : Word) :
    ∀ (ws : List (RegIx × Word)) (regs : Vector Word 8), (ws.map Prod.fst).Nodup → (k, v) ∈ ws →
      (applyWrites regs ws)[k] = v
  | [], _, _, h => by simp at h
  | (j, u) :: ws, regs, hn, h => by
    rw [List.map_cons, List.nodup_cons] at hn
    rw [applyWrites]
    rcases List.mem_cons.1 h with h | h
    · cases h
      rw [applyWrites_other k ws _ fun p hp e => hn.1 (List.mem_map.2 ⟨p, hp, e⟩)]
      simp
    · exact applyWrites_mem k v ws _ hn.2 h

/-- The frame of `finish`: what it changes beside its own writes, CODE, FLAG, BUSY and DONE (R144). -/
theorem finish_frame (f : Finish) (s : State) (dests : List RegIx) (h : ∀ p ∈ f.writes, p.1 ∈ dests) :
    CompletionFrame dests s (finish f s) := by
  have hr : ∀ k, k ∉ dests → (finish f s).reg k = s.reg k := fun k hk =>
    applyWrites_other k _ _ fun p hp e => hk (e ▸ h p hp)
  refine ⟨hr, rfl, rfl, rfl, rfl, rfl, rfl, rfl, fun r h1 h2 => ?_⟩
  cases r with
  | data k => exact hr k fun hk => h2 k hk rfl
  | status => exact absurd rfl h1
  | _ => rfl

/-- The one register a one-write completion writes. -/
theorem finish_reg_one (code : CompletionCode) (flag : Bool) (k : RegIx) (v : Word) (s : State) :
    (finish ⟨code, flag, [(k, v)]⟩ s).reg k = v := by
  simp [State.reg, applyWrites]

/-- The latch a start takes agrees with its own word (R141). -/
theorem latchOperands_consistent (w : Word) (s : State) : (latchOperands w s).Consistent := ⟨rfl, rfl⟩

@[simp] theorem applyWrites_nil (regs : Vector Word 8) : applyWrites regs [] = regs := rfl

/-! ## The window -/

theorem windowOffset_base_add (o : Nat) :
    windowOffset (Config.base + o) = if o < 64 then some o else none := by
  simp [windowOffset, Config.windowSize]

theorem windowOffset_eq_some {a o : Nat} : windowOffset a = some o ↔ a = Config.base + o ∧ o < 64 := by
  unfold windowOffset Config.windowSize
  split <;> simp <;> omega

@[simp] theorem target_data (k : RegIx) : target (4 * k.val) = .data k := by
  revert k; decide

theorem target_cmd : target 0x20 = .cmd := rfl
theorem target_status : target 0x24 = .status := rfl
theorem target_ctrl : target 0x28 = .ctrl := rfl
theorem target_id : target 0x2C = .id := rfl

/-! ## The block's answers -/

theorem access_read {t : Transaction} {o : Nat} (s : State) (h : t.supported o = true) (hr : t.access = .read) :
    access o t s = (s, .okayRead (readTarget s (target o))) := by
  simp [access, h, hr]

theorem access_write {t : Transaction} {o : Nat} {v : Word} (s : State) (h : t.supported o = true)
    (hw : t.access = .write v) : access o t s = (writeTarget v s (target o), .okayWrite) := by
  simp [access, h, hw]

theorem access_unsupported {t : Transaction} {o : Nat} (s : State) (h : t.supported o = false) :
    access o t s = (s, .error) := by
  simp [access, h]

/-- A host step that gives a next state is a supported read or write inside the window. -/
theorem hostStep_cases {t : Transaction} {s s' : State} (h : hostStep t s = .next s') :
    ∃ o, windowOffset t.addr = some o ∧ t.supported o = true ∧
      ((t.access = .read ∧ s' = { s with response := some (.okayRead (readTarget s (target o))) }) ∨
        ∃ v, t.access = .write v ∧ s' = { writeTarget v s (target o) with response := some .okayWrite }) := by
  unfold hostStep at h
  split at h
  · cases h
  · rename_i o ho
    refine ⟨o, ho, ?_⟩
    cases hs : t.supported o
    · simp [access_unsupported s hs] at h
    · cases ha : t.access with
      | read => rw [access_read s hs ha] at h; cases h; simp
      | write v => rw [access_write s hs ha] at h; cases h; simp

/-- The aligned reads of R86, at an offset of the window. -/
theorem hostStep_read {o : Nat} (s : State) (ho : o < 64) (h4 : o % 4 = 0) :
    hostStep (memRead (Config.base + o)) s =
      .next { s with response := some (.okayRead (readTarget s (target o))) } := by
  have hs : (memRead (Config.base + o)).supported o = true := by simp [Transaction.supported, memRead, h4]
  have hw : windowOffset (memRead (Config.base + o)).addr = some o := windowOffset_eq_some.2 ⟨rfl, ho⟩
  simp [hostStep, hw, access_read s hs rfl]

/-- The aligned writes of R86, at an offset of the window. -/
theorem hostStep_write {o : Nat} (v : Word) (s : State) (ho : o < 64) (h4 : o % 4 = 0) :
    hostStep (memWrite (Config.base + o) v) s =
      .next { writeTarget v s (target o) with response := some .okayWrite } := by
  have hs : (memWrite (Config.base + o) v).supported o = true := by simp [Transaction.supported, memWrite, h4]
  have hw : windowOffset (memWrite (Config.base + o) v).addr = some o := windowOffset_eq_some.2 ⟨rfl, ho⟩
  simp [hostStep, hw, access_write s hs rfl]

/-- Every write of the window leaves the latch as it is, or is a start. -/
theorem writeTarget_cases (v : Word) (s : State) (r : Target) :
    (∃ k, r = .data k ∧ s.busy = false ∧ writeTarget v s r = { s with regs := s.regs.set k v }) ∨
    (r = .cmd ∧ s.busy = false ∧ writeTarget v s r = start v s) ∨
    (s.busy = true ∧ (r = .cmd ∨ ∃ k, r = .data k) ∧ writeTarget v s r = dropWrite s) ∨
    (r = .status ∧ writeTarget v s r = writeStatus v s) ∨
    (r = .ctrl ∧ writeTarget v s r = writeCtrl v s) ∨
    ((r = .id ∨ r = .reserved) ∧ writeTarget v s r = s) := by
  cases r <;> cases hb : s.busy <;> simp [writeTarget, writeData, writeCmd, hb]

/-- A host step that gives a next state is a read, or a write of one register. -/
theorem hostStep_readOrWrite {t : Transaction} {s s' : State} (h : hostStep t s = .next s') :
    (t.access = .read ∧ ∃ o, windowOffset t.addr = some o ∧
      s' = { s with response := some (.okayRead (readTarget s (target o))) }) ∨
    ∃ r v, writeTargetOf t = some r ∧ t.access = .write v ∧
      s' = { writeTarget v s r with response := some .okayWrite } := by
  obtain ⟨o, ho, hs, ⟨h1, rfl⟩ | ⟨v, hv, rfl⟩⟩ := hostStep_cases h
  · exact .inl ⟨h1, o, ho, rfl⟩
  · exact .inr ⟨target o, v, by simp [writeTargetOf, hv, ho, Option.filter, hs], hv, rfl⟩

/-- While BUSY a host step leaves the phase, the data registers and the latch as they are (R149, R152). -/
theorem hostStep_busy {t : Transaction} {s s' : State} (hp : s.phase = .busy) (h : hostStep t s = .next s') :
    s'.phase = .busy ∧ s'.regs = s.regs ∧ s'.latch = s.latch ∧ s'.agenda = s.agenda := by
  obtain ⟨_, _, _, rfl⟩ | ⟨r, v, _, _, rfl⟩ := hostStep_readOrWrite h
  · exact ⟨hp, rfl, rfl, rfl⟩
  · have hb : s.busy = true := (busy_iff s).2 hp
    rcases writeTarget_cases v s r with ⟨_, _, h, _⟩ | ⟨_, h, _⟩ | ⟨_, _, h⟩ | ⟨_, h⟩ | ⟨_, h⟩ | ⟨_, h⟩
    · simp [hb] at h
    · simp [hb] at h
    all_goals rw [h]; simp [hp]

/-! ## Commands and completions -/

/-- Every command ends by `finish` (R220). -/
theorem exec_finishes (i : Instr) (s : State) : ∃ f, exec i s = .next (finish f s) := by
  cases i <;> exact ⟨_, rfl⟩

/-- So does every completion. -/
theorem completion_finishes (take : Bool) (s : State) : ∃ f, completion take s = .next (finish f s) := by
  unfold completion completeNormally
  split
  · exact ⟨_, rfl⟩
  · split
    · exact exec_finishes _ s
    · exact ⟨_, rfl⟩

theorem completionSlot_cases {take : Bool} {s s' : State} (h : completionSlot take s = .next s') :
    (s.phase = .idle ∧ s' = s) ∨ (s.phase = .busy ∧ completion take s = .next s') := by
  unfold completionSlot at h
  split at h
  · rename_i hp; cases h; exact .inl ⟨hp, rfl⟩
  · rename_i hp; exact .inr ⟨hp, h⟩

/-- What one step can do: nothing (an IDLE engine with an empty agenda, or a completion slot it does not take), a
completion, a host access, or a reset. -/
theorem step_cases {s s' : State} (h : step s = .next s') :
    (s.phase = .idle ∧ s' = s.popAgenda) ∨
    (s.phase = .busy ∧ ∃ take, completion take s.popAgenda = .next s') ∨
    (∃ t rest, s.agenda = .transaction t :: rest ∧ hostStep t s.popAgenda = .next s') ∨
    (∃ rest, s.agenda = .reset :: rest ∧ s' = resetBlock s.popAgenda) := by
  unfold step advance at h
  split at h
  · rename_i ha
    have hpop : s.popAgenda = s := by
      have : s.agenda.tail = s.agenda := by simp [ha]
      simp [State.popAgenda, this]
    rw [hpop]
    rcases completionSlot_cases h with ⟨hp, rfl⟩ | ⟨hp, hc⟩
    · exact .inl ⟨hp, rfl⟩
    · exact .inr (.inl ⟨hp, _, hc⟩)
  · rename_i e rest ha
    have hpop : s.popAgenda = { s with agenda := rest } := by simp [State.popAgenda, ha]
    rw [hpop]
    cases e with
    | transaction t => exact .inr (.inr (.inl ⟨t, rest, ha, h⟩))
    | completion take =>
      rcases completionSlot_cases h with ⟨hp, rfl⟩ | ⟨hp, hc⟩
      · exact .inl ⟨hp, rfl⟩
      · exact .inr (.inl ⟨hp, _, hc⟩)
    | reset => cases h; exact .inr (.inr (.inr ⟨rest, ha, rfl⟩))

/-- A run whose first step gives a next state goes on from it. -/
theorem run_succ {k : Nat} {s s' : State} (h : step s = .next s') : run (k + 1) s = run k s' := by
  simp only [run, h]

/-- What holds along a run whose first step gives a next state. -/
theorem along_succ {P : State → Prop} {k : Nat} {s s' : State} (h : step s = .next s') (hs : P s)
    (hr : Along P k s') : Along P (k + 1) s :=
  ⟨hs, fun u hu => by rw [h] at hu; cases hu; exact hr⟩

/-- A run that gives a next state has a first step that does. -/
theorem run_succ_cases {k : Nat} {s t : State} (h : run (k + 1) s = .next t) :
    ∃ s', step s = .next s' ∧ run k s' = .next t := by
  simp only [run] at h
  cases hs : step s with
  | next s' => rw [hs] at h; exact ⟨s', rfl, h⟩
  | fault r => rw [hs] at h; cases h
  | refused r => rw [hs] at h; cases h

/-- The step at a known next event. -/
theorem step_cons {s : State} {e : Event} {rest : List Event} (h : s.agenda = e :: rest) :
    step s = runEvent e s.popAgenda := by
  simp [step, advance, h, State.popAgenda]

/-- The step at a write of the register at an aligned offset of the window. -/
theorem step_wrAt {s : State} {o : Nat} {v : Word} {rest : List Event} (h : s.agenda = wrAt o v :: rest)
    (ho : o < 64) (h4 : o % 4 = 0) :
    step s = .next { writeTarget v s.popAgenda (target o) with response := some .okayWrite } := by
  rw [step_cons h]
  exact hostStep_write v s.popAgenda ho h4

/-- The step at a read of the register at an aligned offset of the window. -/
theorem step_rdAt {s : State} {o : Nat} {rest : List Event} (h : s.agenda = rdAt o :: rest)
    (ho : o < 64) (h4 : o % 4 = 0) :
    step s = .next { s.popAgenda with response := some (.okayRead (readTarget s.popAgenda (target o))) } := by
  rw [step_cons h]
  exact hostStep_read s.popAgenda ho h4

/-- A write transaction as R122 gives it is for the register at its offset. -/
theorem writeTargetOf_memWrite {o : Nat} (v : Word) (ho : o < 64) (h4 : o % 4 = 0) :
    writeTargetOf (memWrite (Config.base + o) v) = some (target o) := by
  have hw : windowOffset (memWrite (Config.base + o) v).addr = some o := windowOffset_eq_some.2 ⟨rfl, ho⟩
  have hs : (memWrite (Config.base + o) v).supported o = true := by simp [Transaction.supported, memWrite, h4]
  show ((windowOffset (memWrite (Config.base + o) v).addr).filter (memWrite (Config.base + o) v).supported).map target = _
  simp [hw, Option.filter, hs]

end Sys2Proof.Machine
end

