-- ==== Sys2Proof/Laws/PerInstr.lean ====
section
/-! SUPPORT. One family of facts per command: the fields of its own word (`30_encoding.md` R101 to R103, R105). -/

open Sys2Proof.Machine

namespace Sys2Proof.Laws

/-- The word of a command has its reserved bits 0, and its source fields name the command's source registers. -/
def EncodedFields.Statement (i : Instr) : Prop :=
  reservedBitsZero (encode i) = true ∧ rs1Field (encode i) = sourceA i ∧ rs2Field (encode i) = sourceB i ∧
    rs3Field (encode i) = sourceC i

theorem encodedFields_enc (op : Nat) (rd rs1 rs2 rs3 : RegIx) (h : op < 16) :
    reservedBitsZero (enc op rd rs1 rs2 rs3) = true ∧ rs1Field (enc op rd rs1 rs2 rs3) = rs1 ∧
      rs2Field (enc op rd rs1 rs2 rs3) = rs2 ∧ rs3Field (enc op rd rs1 rs2 rs3) = rs3 :=
  ⟨reservedBitsZero_enc op rd rs1 rs2 rs3 h, rs1Field_enc op rd rs1 rs2 rs3 h, rs2Field_enc op rd rs1 rs2 rs3 h,
    rs3Field_enc op rd rs1 rs2 rs3 h⟩

theorem EncodedFields.isprime (rd rs1 : RegIx) : EncodedFields.Statement (.isprime rd rs1) :=
  encodedFields_enc 1 rd rs1 0 0 (by decide)

theorem EncodedFields.gcd (rd rs1 rs2 : RegIx) : EncodedFields.Statement (.gcd rd rs1 rs2) :=
  encodedFields_enc 2 rd rs1 rs2 0 (by decide)

theorem EncodedFields.powmod (rd rs1 rs2 rs3 : RegIx) : EncodedFields.Statement (.powmod rd rs1 rs2 rs3) :=
  encodedFields_enc 3 rd rs1 rs2 rs3 (by decide)

theorem EncodedFields.inv (rd rs1 rs2 rs3 : RegIx) : EncodedFields.Statement (.inv rd rs1 rs2 rs3) :=
  encodedFields_enc 4 rd rs1 rs2 rs3 (by decide)

theorem EncodedFields.factor (rd rs1 : RegIx) : EncodedFields.Statement (.factor rd rs1) :=
  encodedFields_enc 5 rd rs1 0 0 (by decide)

theorem EncodedFields.clr : EncodedFields.Statement .clr :=
  encodedFields_enc 6 0 0 0 0 (by decide)

end Sys2Proof.Laws
end

