-- ==== Sys2Proof/Tests/Slice0.lean ====
section
/-! SUPPORT. Tests. The expected results are those of `95_test_vectors.md` (its section, vector or program is named at each
test) or follow from the rule named by hand. -/

namespace Sys2Proof.Tests

open Sys2Proof Sys2Proof.Machine

/-! ## WellFormed: each check refuses an ill-formed term -/

/-- R107. -/
theorem test_factor_rd6_is_ill_formed : (Instr.factor 6 0).wellFormed = false := by decide
theorem test_factor_rd7_is_ill_formed : (Instr.factor 7 0).wellFormed = false := by decide
theorem test_factor_rd5_is_well_formed : (Instr.factor 5 0).WellFormed := by decide

/-! ## Decoding: words written out bit by bit, fields 31:23, RS3, 19, RS2, 15, RS1, 11, RD, 7:4, OP (R101) -/

theorem test_decode_isprime : decode 0b000000000_000_0_000_0_000_0_001_0000_0001#32 = .ok (.isprime 1 0) := by decide
theorem test_decode_gcd : decode 0b000000000_000_0_001_0_000_0_010_0000_0010#32 = .ok (.gcd 2 0 1) := by decide
theorem test_decode_powmod : decode 0b000000000_100_0_001_0_101_0_110_0000_0011#32 = .ok (.powmod 6 5 1 4) := by decide
theorem test_decode_inv : decode 0b000000000_100_0_000_0_001_0_011_0000_0100#32 = .ok (.inv 3 1 0 4) := by decide
theorem test_decode_factor : decode 0b000000000_000_0_000_0_001_0_010_0000_0101#32 = .ok (.factor 2 1) := by decide
theorem test_decode_clr : decode 0b000000000_000_0_000_0_000_0_000_0000_0110#32 = .ok .clr := by decide

/-- Section 3.7: the illegal words, by the reason of R108 each has. -/
theorem test_decode_reserved_opcodes :
    [0x00000000#32, 0x00000007#32, 0x0000000F#32].map decode = List.replicate 3 (.error .reservedOpcode) := by decide
theorem test_decode_reserved_bits :
    [0x00000011#32, 0x00000801#32, 0x00008001#32, 0x00080002#32, 0x00800003#32, 0x80000003#32, 0xFFFFFFFF#32].map decode
      = List.replicate 7 (.error .reservedBits) := by decide
theorem test_decode_unused_fields :
    [0x00010101#32, 0x00100101#32, 0x00110202#32, 0x00010105#32, 0x00000106#32, 0x00001006#32].map decode
      = List.replicate 6 (.error .unusedField) := by decide
theorem test_decode_factor_destination :
    [0x00000605#32, 0x00000705#32].map decode = List.replicate 2 (.error .factorDestination) := by decide

/-- Section 4, programs P1 and P2: the words of the commands they issue. -/
theorem test_encode_program_words :
    [Instr.gcd 2 0 1, .inv 3 1 0 4, .powmod 6 5 1 4, .powmod 7 6 3 4, .factor 2 1, .inv 5 0 4 1, .powmod 7 6 5 1].map encode
      = [0x00010202#32, 0x00401304#32, 0x00415603#32, 0x00436703#32, 0x00001205#32, 0x00140504#32, 0x00156703#32] := by
  decide

theorem test_table_word : decodeTableWord 32 0x00210303 = some (.powmod 3 0 1 2) := by decide

/-- R120, R121. -/
theorem test_assemble_encrypt : Asm.assemble .encrypt [6, 5, 1, 4] = some (.powmod 6 5 1 4) := by decide
theorem test_assemble_refuses : Asm.assemble .gcd [8, 0, 1] = none ∧ Asm.assemble .factor [6, 0] = none := by decide

/-! ## One command on a small state -/

/-- The reset state with D0 to D3 written and the engine started with a word. -/
def loaded (w d0 d1 d2 d3 : Word) : State :=
  loadCommand w { State.reset with regs := #v[d0, d1, d2, d3, 0#32, 0#32, 0#32, 0#32] }

/-- The register Dk and STATUS after one step. -/
def outcome (k : RegIx) (s : State) : Option (Word × Word) :=
  match step s with
  | .next t => some (t.reg k, t.statusWord)
  | _ => none

/-- Section 3.1. -/
theorem test_isprime_46349 : outcome 1 (loaded 0x00000101#32 46349#32 0#32 0#32 0#32) = some (1#32, 0x6#32) := by decide
theorem test_isprime_square : outcome 1 (loaded 0x00000101#32 25#32 9#32 0#32 0#32) = some (0#32, 0x2#32) := by decide

/-- Section 3.2: the worst case of the loop, and the guard. -/
theorem test_gcd_fibonacci :
    outcome 2 (loaded 0x00010202#32 2971215073#32 1836311903#32 0#32 0#32) = some (1#32, 0x6#32) := by decide
theorem test_gcd_guard : outcome 2 (loaded 0x00010202#32 12#32 35#32 0#32 0#32) = some (12#32, 0x2#32) := by decide

/-- Section 3.3. -/
theorem test_powmod_largest :
    outcome 3 (loaded 0x00210303#32 3#32 4294967295#32 4294967291#32 0#32) = some (243#32, 0x6#32) := by decide
theorem test_powmod_zero_modulus :
    outcome 3 (loaded 0x00210303#32 0#32 0#32 0#32 5#32) = some (0#32, 0x22#32) := by decide

/-- Section 3.4: the P1 key; the bound n that cuts the search off, and e = 0 (R196). -/
theorem test_inv_p1_key :
    outcome 3 (loaded 0x00210304#32 7#32 2148229800#32 2148322499#32 0#32) = some (613779943#32, 0x6#32) := by decide
theorem test_inv_failures : outcome 3 (loaded 0x00210304#32 7#32 40#32 3#32 9#32) = some (0#32, 0x32#32) ∧
    outcome 3 (loaded 0x00210304#32 0#32 40#32 3#32 9#32) = some (0#32, 0x42#32) := by decide

/-- Section 3.5: 225 has the composite divisor 9 above its prime ones; 10 fails though 2 divides it. -/
theorem test_factor_225 :
    outcome 2 (loaded 0x00000105#32 225#32 0#32 0#32 0#32) = some (45#32, 0x6#32) := by decide
theorem test_factor_10 :
    outcome 1 (loaded 0x00000105#32 10#32 7#32 7#32 7#32) = some (0#32, 0x52#32) := by decide

/-- Section 3.6, OVR sticky; and the word 0x106, which is ILLEGAL. -/
theorem test_clr_keeps_ovr :
    outcome 1 { loaded 0x00000006#32 1#32 2#32 3#32 4#32 with ovr := true } = some (0#32, 0xE#32) := by decide
theorem test_clr_with_rd_is_illegal :
    outcome 1 (loaded 0x00000106#32 1#32 2#32 3#32 4#32) = some (2#32, 0x12#32) := by decide

/-- Vector V15: the destination is also a source. -/
theorem test_gcd_in_place : outcome 0 (loaded 0x00010002#32 35#32 12#32 0#32 0#32) = some (1#32, 0x6#32) := by decide

/-! ## Host steps -/

/-- An idle state with something in every readable field. -/
def sample : State :=
  { State.reset with
    regs := #v[9#32, 2#32, 3#32, 4#32, 5#32, 6#32, 7#32, 8#32], done := true, flag := true, ovr := true, ie := true }

/-- The same block with the ISPRIME of section 3.8 running. -/
def running : State := { start 0x00000101#32 sample with ovr := false }

/-- Vector V10: WR STATUS, 0x2 then reads 0xC. -/
theorem test_status_w1c : (writeStatus 0x2#32 sample).statusWord = 0xC#32 := by decide

/-- Vector V4: WR CTRL, 0xFFFF_FFFF while IDLE reads 1 and requests no abort. -/
theorem test_ctrl_all_ones : (writeCtrl 0xFFFFFFFF#32 sample).ctrlWord = 1#32 ∧
    (writeCtrl 0xFFFFFFFF#32 sample).abortReq = false := by decide

/-- Vector V8: WR D0, 11 while BUSY is dropped; STATUS is 0x9 while BUSY. -/
theorem test_write_while_busy : (writeData 0 11#32 running).reg 0 = 9#32 ∧
    (writeData 0 11#32 running).statusWord = 0x9#32 := by decide

/-- Vector V13: a 4-byte read at offset 2 and an 8-byte read at offset 0 are answered ERROR. -/
theorem test_bus_errors : (access 2 ⟨Config.base + 2, 4, 1, .read⟩ sample).2 = .error ∧
    (access 0 ⟨Config.base, 8, 1, .read⟩ sample).2 = .error := by decide

/-- Vector V1: the offsets 0x2C, 0x20 and 0x30 read ID, 0 and 0. -/
theorem test_reads : [0x2C, 0x20, 0x30].map (fun o => readTarget sample (target o)) = [0x52534143#32, 0#32, 0#32] := by
  decide

/-- Program P4: the abort taken, and not taken. -/
theorem test_abort_taken :
    outcome 3 { loaded 0x00210304#32 2#32 10#32 7#32 0xDEADBEEF#32 with abortReq := true, agenda := [.completion true] }
      = some (0xDEADBEEF#32, 0x62#32) := by decide
theorem test_abort_not_taken :
    outcome 3 { loaded 0x00210304#32 2#32 10#32 7#32 0xDEADBEEF#32 with abortReq := true, agenda := [.completion false] }
      = some (0#32, 0x32#32) := by decide

/-- The host's two questions, on the first command after reset: it is decoded, and it runs in the very next step. -/
theorem test_fetch_word_runs : step (State.reset.withFetchWord 32 0x00000101) =
    exec (.isprime 1 0) (State.reset.withFetchWord 32 0x00000101) := by rfl

/-! ## Witnesses: for each statement that has hypotheses, values that meet all of them together -/

/-- An idle state and a busy one with given steps to come; the first word of `running` is ISPRIME D1, D0. -/
def idleAt (agenda : List Event) : State := { sample with agenda := agenda }
def busyAt (agenda : List Event) : State := { running with agenda := agenda }

/-- A busy state whose latch holds a command word and operand values. -/
def latched (w a b c : Word) : State := { running with latch := ⟨w, opField w, rdField w, a, b, c⟩ }

theorem witness_DecodeOfEncodeIsTheCommand : (Instr.factor 5 7).WellFormed ∧ (Instr.powmod 7 7 7 7).WellFormed := by decide

theorem witness_DecodedWordIsTheCommandsOwn : decode 0x00415603#32 = .ok (.powmod 6 5 1 4) := by decide

theorem witness_OpcodeRowsSeparateTheCommands :
    decode 0x00001205#32 = .ok (.factor 2 1) ∧
    factorRow ∈ opcodeRows ∧ factorRow.covers 0x00001505#32 = true ∧ (rdField 0x00001505#32).val ≤ 5 ∧
    clrRow ∈ opcodeRows ∧ clrRow.covers 0x00000006#32 = true ∧ clrRow ≠ factorRow := by decide

theorem witness_LegalIsTheOpcodeTable : legal 0x00000505#32 = true ∧ legal 0x00000605#32 = false := by decide

theorem witness_FactorPastD7IsIllegal :
    factorRow.covers 0x00000605#32 = true ∧ 5 < (rdField 0x00000605#32).val ∧
    (latched 0x00000605#32 15#32 0#32 0#32).latch.word = 0x00000605#32 ∧
    factorRow.covers 0x00000705#32 = true ∧ 5 < (rdField 0x00000705#32).val := by decide

theorem witness_AssemblerTakesOnlyCommands : Asm.assemble .factor [5, 7] = some (.factor 5 7) ∧
    (5 : RegIx).val ≤ 5 ∧ 5 < (6 : RegIx).val := by decide

/-- A state with each completion code. -/
theorem witness_StatusLayout : ∀ c ∈ [CompletionCode.ok, .illegal, .zeroModulus, .noInverse, .divZero, .factorFail, .aborted],
    { sample with code := c }.code = c := fun _ _ => rfl

theorem witness_ReadReturnsTheRegister :
    ∀ o ∈ [0, 0x1C, 0x20, 0x24, 0x28, 0x2C, 0x30, 0x3C],
      (busyAt [rdAt o]).agenda = rdAt o :: [] ∧ o < 64 ∧ o % 4 = 0 ∧
      (o = 0 → o = 4 * (0 : RegIx).val) ∧ (o = 0x1C → o = 4 * (7 : RegIx).val) := by
  intro o ho
  exact ⟨rfl, by revert o; decide⟩

theorem witness_NoReadHasASideEffect :
    ∃ t s' rest, (busyAt [rdStatus, rdStatus]).agenda = .transaction t :: rest ∧ t.access = .read ∧
      step (busyAt [rdStatus, rdStatus]) = .next s' ∧ rest = .transaction t :: [] :=
  ⟨_, _, _, rfl, rfl, step_rdAt (o := 0x24) rfl (by decide) (by decide), rfl⟩

theorem witness_DataWriteWhileIdleTakesEffect :
    (idleAt [wrData 7 5#32]).phase = .idle ∧ (idleAt [wrData 7 5#32]).agenda = wrData 7 5#32 :: [] := ⟨rfl, rfl⟩

theorem witness_DataWriteWhileBusyIsDropped :
    (busyAt [wrData 0 5#32]).phase = .busy ∧ (busyAt [wrData 0 5#32]).agenda = wrData 0 5#32 :: [] := ⟨rfl, rfl⟩

theorem witness_CommandWriteWhileBusyIsDropped :
    (busyAt [wrCmd 6#32]).phase = .busy ∧ (busyAt [wrCmd 6#32]).agenda = wrCmd 6#32 :: [] := ⟨rfl, rfl⟩

theorem witness_StatusWriteClearsOnlyDoneAndOvr :
    (idleAt [wrStatus 0x2#32]).agenda = wrStatus 0x2#32 :: [] ∧ (0x2#32)[1] = true ∧ (0x2#32)[3] = false ∧
    (busyAt [wrStatus 0x8#32]).agenda = wrStatus 0x8#32 :: [] ∧ (0x8#32)[1] = false ∧ (0x8#32)[3] = true :=
  ⟨rfl, rfl, rfl, rfl, rfl, rfl⟩

theorem witness_CtrlWriteSetsEnableAndAbort :
    (busyAt [wrCtrl 2#32]).agenda = wrCtrl 2#32 :: [] ∧ (2#32)[1] = true ∧ (busyAt [wrCtrl 2#32]).phase = .busy ∧
    (idleAt [wrCtrl 2#32]).agenda = wrCtrl 2#32 :: [] ∧ (idleAt [wrCtrl 2#32]).phase = .idle ∧
    (busyAt [wrCtrl 1#32]).agenda = wrCtrl 1#32 :: [] ∧ (1#32)[1] = false := ⟨rfl, rfl, rfl, rfl, rfl, rfl, rfl⟩

theorem witness_IdAndReservedIgnoreWrites :
    ∀ o ∈ [0x2C, 0x30, 0x3C], (busyAt [wrAt o 9#32]).agenda = wrAt o 9#32 :: [] ∧ 0x2C ≤ o ∧ o < 64 ∧ o % 4 = 0 := by
  intro o ho
  exact ⟨rfl, by revert o; decide⟩

/-- A misaligned read, a wide read, a burst and a narrow write, at the window's ends. -/
theorem witness_UnsupportedAccessFaultsAndChangesNothing :
    ∀ p ∈ [(2, 4, 1, Access.read), (0, 8, 1, .read), (60, 4, 2, .read), (63, 1, 1, .write 0#32)],
      (idleAt [.transaction ⟨Config.base + p.1, p.2.1, p.2.2.1, p.2.2.2⟩]).agenda =
        .transaction ⟨Config.base + p.1, p.2.1, p.2.2.1, p.2.2.2⟩ :: [] ∧
      p.1 < 64 ∧ ¬(p.2.1 = 4 ∧ p.2.2.1 = 1 ∧ p.1 % 4 = 0) := by
  intro p hp
  exact ⟨rfl, by revert p; decide⟩

theorem witness_AddressOutsideTheWindowIsRefused :
    (idleAt [.transaction (memRead (Config.base + 64))]).agenda = .transaction (memRead (Config.base + 64)) :: [] ∧
      ((memRead (Config.base + 64)).addr < Config.base ∨ Config.base + 64 ≤ (memRead (Config.base + 64)).addr) :=
  ⟨rfl, .inr (Nat.le_refl _)⟩

theorem witness_StartLatchesTheCommand :
    (idleAt [wrCmd 0x00213703#32]).phase = .idle ∧
    (idleAt [wrCmd 0x00213703#32]).agenda = wrCmd 0x00213703#32 :: [] ∧
    (3 : RegIx).val = ((0x00213703#32).extractLsb 14 12).toNat ∧
    (1 : RegIx).val = ((0x00213703#32).extractLsb 18 16).toNat ∧
    (2 : RegIx).val = ((0x00213703#32).extractLsb 22 20).toNat := ⟨rfl, rfl, rfl, rfl, rfl⟩

theorem witness_StepRunsTheDecodedCommand :
    (busyAt []).CompletesNext ∧ (busyAt [.completion true]).CompletesNext ∧ (busyAt []).latch.Consistent ∧
      decode (busyAt []).latch.word = .ok (.isprime 1 0) :=
  ⟨⟨rfl, .inl ⟨rfl, rfl⟩⟩, ⟨rfl, .inr ⟨true, [], rfl, rfl⟩⟩, ⟨rfl, rfl⟩, by decide⟩

theorem witness_LoadedWordRunsNext : 0x00001505 < 2 ^ 32 ∧ decodeTableWord 32 0x00001505 = some (.factor 5 1) := by decide

theorem witness_IssuedCommandUsesTheOperandsAtStart :
    (idleAt [issue (.gcd 0 0 1), .completion true]).phase = .idle ∧ (Instr.gcd 0 0 1).WellFormed ∧
    (idleAt [issue (.gcd 0 0 1), .completion true]).agenda = issue (.gcd 0 0 1) :: .completion true :: [] :=
  ⟨rfl, by decide, rfl⟩

theorem witness_IllegalWordCompletesWithoutWrites :
    (idleAt [wrCmd 0xFFFFFFFF#32, .completion true]).phase = .idle ∧ legal 0xFFFFFFFF#32 = false ∧
    (idleAt [wrCmd 0xFFFFFFFF#32, .completion true]).agenda = wrCmd 0xFFFFFFFF#32 :: .completion true :: [] ∧
    legal (latched 0x00000605#32 15#32 0#32 0#32).latch.word = false := ⟨rfl, by decide, rfl, by decide⟩

theorem witness_RequestedAbortAdmitsBothOutcomes :
    (busyAt [.completion false]).phase = .busy ∧
    (busyAt [.completion false]).agenda = .completion false :: [] ∧ (busyAt [.completion false]).abortReq = false ∧
    { busyAt [.completion false] with abortReq := true }.agenda = .completion false :: [] ∧
    { busyAt [.completion true] with abortReq := true }.agenda = .completion true :: [] := ⟨rfl, rfl, rfl, rfl, rfl⟩

theorem witness_AbortedKeepsEveryRegister :
    { busyAt [.completion true] with abortReq := true }.phase = .busy ∧
    { busyAt [.completion true] with abortReq := true }.abortReq = true ∧
    { busyAt [.completion true] with abortReq := true }.agenda = .completion true :: [] := ⟨rfl, rfl, rfl⟩

theorem witness_AbortDoesNotCarryOver :
    (idleAt [wrCtrl 2#32, wrCmd 0x00000101#32, .completion true]).phase = .idle ∧
    (idleAt [wrCtrl 2#32, wrCmd 0x00000101#32, .completion true]).agenda =
      wrCtrl 2#32 :: wrCmd 0x00000101#32 :: .completion true :: [] := ⟨rfl, rfl⟩

/-- Two states with one latch and different data registers, without and with a taken abort. -/
theorem witness_OutcomeDependsOnlyOnTheLatch :
    ∀ a : Bool, { running with abortReq := a }.latch = { dropWrite running with abortReq := a, regs := State.reset.regs }.latch ∧
      ∃ t t', completion true { running with abortReq := a } = .next t ∧
        completion true { dropWrite running with abortReq := a, regs := State.reset.regs } = .next t' := by
  intro a
  obtain ⟨f, hf⟩ := completion_finishes true { running with abortReq := a }
  obtain ⟨f', hf'⟩ := completion_finishes true { dropWrite running with abortReq := a, regs := State.reset.regs }
  exact ⟨rfl, _, _, hf, hf'⟩

/-- A write of CTRL that requests an abort, then a write of D0. -/
def abortThenWrite : List Transaction := [memWrite (Config.base + 0x28) 2#32, memWrite (Config.base + 0) 5#32]

/-- The same in front of a completion of the running ISPRIME. -/
def accessed : State := busyAt (abortThenWrite.map Event.transaction ++ [Event.completion true])

theorem witness_HostAccessesNeverChangeARunningCommand :
    accessed.phase = .busy ∧ accessed.agenda = abortThenWrite.map Event.transaction ++ [Event.completion true] ∧
    ∃ t t' s' : State, run abortThenWrite.length accessed = .next t ∧ completeNormally t = .next t' ∧
      completeNormally accessed = .next s' := by
  have hrun := (run_succ (k := 1)
      (step_wrAt (s := accessed) (o := 0x28)
        rfl (by decide) (by decide))).trans
    (run_succ (step_wrAt (o := 0) rfl (by decide) (by decide)))
  have hc : ∀ u : State, ∃ t, completeNormally u = .next t := fun u => by
    obtain ⟨f, hf⟩ := completion_finishes false u
    exact ⟨_, by simpa [completion] using hf⟩
  obtain ⟨t', ht'⟩ := hc _
  obtain ⟨s', hs'⟩ := hc accessed
  exact ⟨rfl, rfl, _, t', s', hrun, ht', hs'⟩

theorem witness_EveryStartedCommandCompletes :
    (busyAt [wrData 7 5#32, .completion false]).phase = .busy ∧
    ∀ t : Transaction, Event.transaction t ∈ (busyAt [wrData 7 5#32, .completion false]).agenda →
      ∃ o, windowOffset t.addr = some o ∧ t.supported o = true := by
  refine ⟨rfl, fun t ht => ?_⟩
  simp only [busyAt, List.mem_cons, List.not_mem_nil, or_false, reduceCtorEq] at ht
  cases ht
  exact ⟨28, windowOffset_eq_some.2 ⟨rfl, by decide⟩, rfl⟩

theorem witness_PhaseChangesOnlyAtStartAndCompletion :
    (∃ t, step (idleAt [wrCmd 6#32]) = .next t ∧ (idleAt [wrCmd 6#32]).phase = .idle ∧ t.phase = .busy) ∧
    (∃ t, step (busyAt []) = .next t ∧ (busyAt []).phase = .busy ∧ t.phase = .idle) ∧
    (∃ t, step (busyAt [.reset]) = .next t ∧ (busyAt [.reset]).phase = .busy ∧ t.phase = .idle) :=
  ⟨⟨_, step_wrAt (o := 0x20) rfl (by decide) (by decide), rfl, rfl⟩, ⟨_, rfl, rfl, rfl⟩, ⟨_, rfl, rfl, rfl⟩⟩

/-- By a reset, by a host write, and by a completion (9 is not prime: D1 goes from 2 to 0). -/
theorem witness_DataRegistersChangeOnlyWhereTheyMay :
    (∃ t, step (busyAt [.reset]) = .next t ∧ t.reg 7 ≠ (busyAt [.reset]).reg 7) ∧
    (∃ t, step (idleAt [wrData 7 5#32]) = .next t ∧ t.reg 7 ≠ (idleAt [wrData 7 5#32]).reg 7) ∧
    (∃ t, step (busyAt []) = .next t ∧ t.reg 1 ≠ (busyAt []).reg 1) :=
  ⟨⟨_, rfl, by decide⟩, ⟨_, step_wrAt (o := 28) rfl (by decide) (by decide), by decide⟩, ⟨_, rfl, by decide⟩⟩

theorem witness_OvrIsStickyAndSetByDroppedWrites :
    (∃ t, step (busyAt [wrCmd 6#32]) = .next t ∧ t.ovr = true) ∧
    (∃ t, step (idleAt [wrStatus 8#32]) = .next t ∧ t.ovr = false) ∧
    (∃ t, step (idleAt [wrStatus 2#32]) = .next t ∧ t.ovr = true) :=
  ⟨⟨_, step_wrAt (o := 0x20) rfl (by decide) (by decide), rfl⟩,
    ⟨_, step_wrAt (o := 0x24) rfl (by decide) (by decide), rfl⟩,
    ⟨_, step_wrAt (o := 0x24) rfl (by decide) (by decide), rfl⟩⟩

/-- A run that writes CTRL and then completes, in which nothing clears OVR. -/
theorem witness_ClearOvrShowsNoWriteWasDropped :
    ∃ t, run 2 (busyAt [wrCtrl 1#32, .completion false]) = .next t ∧
      Along (fun u => u.clearsOvrNext = false) 2 (busyAt [wrCtrl 1#32, .completion false]) ∧ t.ovr = false := by
  have h := step_wrAt (s := busyAt [wrCtrl 1#32, .completion false]) (o := 0x28) rfl (by decide) (by decide)
  refine ⟨_, (run_succ h).trans rfl, along_succ h ?_ (along_succ rfl rfl trivial), rfl⟩
  simp only [State.clearsOvrNext, busyAt, wrCtrl, wrAt, writeTargetOf_memWrite (o := 0x28) 1#32 (by decide) (by decide),
    target_ctrl]

/-- DONE is set by a completion, and cleared by a write of STATUS, by a start and by a reset. -/
theorem witness_DoneIsSetOnlyByCompletion :
    (∃ t, step (busyAt []) = .next t ∧ (busyAt []).done = false ∧ t.done = true) ∧
    (∃ t, step (idleAt [wrStatus 2#32]) = .next t ∧ (idleAt [wrStatus 2#32]).done = true ∧ t.done = false) ∧
    (∃ t, step (idleAt [wrCmd 6#32]) = .next t ∧ (idleAt [wrCmd 6#32]).done = true ∧ t.done = false) ∧
    (∃ t, step (idleAt [.reset]) = .next t ∧ (idleAt [.reset]).done = true ∧ t.done = false) :=
  ⟨⟨_, rfl, rfl, rfl⟩, ⟨_, step_wrAt (o := 0x24) rfl (by decide) (by decide), rfl, rfl⟩,
    ⟨_, step_wrAt (o := 0x20) rfl (by decide) (by decide), rfl, rfl⟩, ⟨_, rfl, rfl, rfl⟩⟩

theorem witness_IrqFollowsDoneAndEnable :
    (idleAt [wrCtrl 0#32]).agenda = wrCtrl 0#32 :: [] ∧ (idleAt [wrCtrl 0#32]).irq = true ∧
    (∃ t, completion true running = .next t) ∧
    (idleAt [wrStatus 2#32]).agenda = wrStatus 2#32 :: [] ∧ (2#32)[1] = true ∧
    (idleAt [wrStatus 0xFFFFFFFF#32]).agenda = wrStatus 0xFFFFFFFF#32 :: [] ∧ (0xFFFFFFFF#32)[1] = true :=
  ⟨rfl, rfl, ⟨_, rfl⟩, rfl, rfl, rfl, rfl⟩

theorem witness_ResetAbandonsTheCommand : (busyAt [.reset, rdId]).agenda = .reset :: [rdId] ∧
    (busyAt [.reset, rdId]).phase = .busy := ⟨rfl, rfl⟩

theorem witness_StepKeepsTheStateInvariant : (busyAt []).Inv ∧ ∃ t, step (busyAt []) = .next t :=
  ⟨by decide, _, rfl⟩

theorem witness_CommandsChangeOnlyTheirDestinations :
    (∃ t, exec (.isprime 7 0) running = .next t) ∧ (∃ t, exec (.gcd 7 0 1) running = .next t) ∧
    (∃ t, exec (.powmod 7 0 1 2) running = .next t) ∧ (∃ t, exec (.inv 7 0 1 2) running = .next t) ∧
    (∃ t, exec (.factor 5 0) running = .next t) ∧ (∃ t, exec .clr running = .next t) :=
  ⟨⟨_, rfl⟩, ⟨_, rfl⟩, ⟨_, rfl⟩, ⟨_, rfl⟩, ⟨_, rfl⟩, ⟨_, rfl⟩⟩

theorem witness_EveryResultFitsARegister :
    4 < 2 ^ 32 ∧ 3 < 2 ^ 32 ∧ 2 < 2 ^ 32 ∧ invFn 4 3 2 = .found 1 ∧ factorFn 4 = some ⟨2, 2, 1⟩ := by decide

theorem witness_TrialDivisionIsPrimality : 4294967295 < 2 ^ 32 := by decide

theorem witness_IsprimeWritesPrimality :
    Nat.Prime (latched 0x00000101#32 2#32 0#32 0#32).latch.a.toNat ∧
    ¬Nat.Prime (latched 0x00000101#32 1#32 0#32 0#32).latch.a.toNat := ⟨Nat.prime_two, Nat.not_prime_one⟩

theorem witness_GuardedGcdAgainstTheMathematicalGcd : (0 < 1 ∧ 1 < 2) ∧ 2 = 2 ∧ 12 < 35 ∧ ¬12 ∣ 35 ∧ 12 ∣ 36 := by decide

theorem witness_GcdWritesTheGuardedGcd :
    (latched 0x00010202#32 12#32 12#32 0#32).latch.a.toNat ≤ (latched 0x00010202#32 12#32 12#32 0#32).latch.b.toNat ∧
    (latched 0x00010202#32 13#32 12#32 0#32).latch.b.toNat < (latched 0x00010202#32 13#32 12#32 0#32).latch.a.toNat := by
  decide

theorem witness_SquareAndMultiplyIsThePower :
    (7 < 2 ^ 32 ∧ 0 < 2 ^ 32 ∧ 2 < 2 ^ 32 ∧ 1 ≤ 2 ∧ ¬(0 = 0 ∧ 2 = 1)) ∧
    (7 < 2 ^ 32 ∧ 1 < 2 ^ 32 ∧ 1 < 2 ^ 32 ∧ 1 ≤ 1 ∧ ¬(1 = 0 ∧ 1 = 1)) := by decide

/-- The largest product there is. -/
theorem witness_PowerProductsStayBelow64Bits :
    4294967295 < 2 ^ 32 ∧ 1 < 2 ^ 32 ∧ 1 ≤ 4294967295 ∧
      (2 ^ 32 - 1) ^ 2 ∈ (powLoopTraced 4294967295 1 1 4294967295 1).2 := by decide

/-- m = 0; m = 1 with e = 0; m = 1 with e = 1; m = 2 with e = 0. -/
theorem witness_PowmodWritesThePower :
    (latched 0x00210303#32 3#32 0#32 0#32).latch.c = 0#32 ∧
    ((latched 0x00210303#32 3#32 0#32 1#32).latch.c = 1#32 ∧ (latched 0x00210303#32 3#32 0#32 1#32).latch.b = 0#32) ∧
    ((latched 0x00210303#32 3#32 1#32 1#32).latch.c ≠ 0#32 ∧ (latched 0x00210303#32 3#32 1#32 1#32).latch.b ≠ 0#32) ∧
    ((latched 0x00210303#32 3#32 0#32 2#32).latch.c ≠ 0#32 ∧ (latched 0x00210303#32 3#32 0#32 2#32).latch.c ≠ 1#32) := by
  decide

/-- The key with p = 61, q = 53, e = 17, d = 2753, a message below n and one above it, and the two orders. -/
theorem witness_EncryptThenDecryptIsTheMessage :
    Nat.Prime 61 ∧ Nat.Prime 53 ∧ 61 ≠ 53 ∧ 61 * 53 < 2 ^ 32 ∧ 17 < 2 ^ 32 ∧
    Nat.Coprime 17 ((61 - 1) * (53 - 1)) ∧ invFn 17 ((61 - 1) * (53 - 1)) (61 * 53) = .found 2753 ∧
    ∀ m ∈ [65#32, 4000#32], ∀ xy ∈ [(17#32, 2753#32), (2753#32, 17#32)], ∃ t1 t2,
      exec (.powmod 3 0 1 2) (latched 0x00210303#32 m xy.1 3233#32) = .next t1 ∧
      exec (.powmod 3 0 1 2) (latched 0x00210303#32 (t1.reg 3) xy.2 3233#32) = .next t2 ∧
      (3233#32).toNat = 61 * 53 :=
  ⟨by norm_num, by norm_num, by decide, by decide, by decide, by decide, by decide,
    fun _ _ _ _ => ⟨_, _, rfl, rfl, rfl⟩⟩

/-- e = 0; no i below n; the least i just below n. -/
theorem witness_InvWritesTheBoundedSearchResult :
    (latched 0x00210304#32 0#32 2#32 5#32).latch.a = 0#32 ∧
    ((latched 0x00210304#32 3#32 2#32 1#32).latch.a ≠ 0#32 ∧
      ∀ i < (latched 0x00210304#32 3#32 2#32 1#32).latch.c.toNat, ¬3 ∣ i * 2 + 1) ∧
    (1 < (latched 0x00210304#32 3#32 2#32 2#32).latch.c.toNat ∧ (latched 0x00210304#32 3#32 2#32 2#32).latch.a ≠ 0#32 ∧
      3 ∣ 1 * 2 + 1 ∧ ∀ j < 1, ¬3 ∣ j * 2 + 1) := by decide

theorem witness_EuclideanInverseEqualsTheSearch : 4294967295 < 2 ^ 32 ∧ 4294967294 < 2 ^ 32 ∧ 3 < 2 ^ 32 := by decide

/-- One line for each clause of R195, in its order from e = 1 on. -/
theorem witness_InvCornerCases :
    1 ≤ 1 ∧ 2 ≤ 2 ∧ (2 ≤ 2 ∧ 2 ≤ 2) ∧ (2 ≤ 3 ∧ 2 < 3) ∧ (6 ≠ 0 ∧ 1 < Nat.gcd 6 4) ∧
    (1 ≤ 3 ∧ 3 ≤ 3 ∧ 2 ≤ 2 ∧ Nat.Coprime 3 2 ∧ 1 < 2 ∧ 1 * 3 % 2 = 1) ∧
    (4 < 5 ∧ Nat.Coprime 5 3 ∧ 5 ∣ 3 * 3 + 1 ∧ ∀ j < 3, ¬5 ∣ j * 3 + 1) ∧ (3 < 5 ∧ 3 ≤ 3) := by decide

/-- The largest n with isqrt 1; the even and the odd ends of isqrt 2; 9 and 15, which have an odd prime divisor up to
isqrt 3; 10, which has none. -/
theorem witness_FactorFindsTheLargestOddPrimeDivisor :
    (1 * 1 ≤ 3 ∧ 3 < (1 + 1) * (1 + 1)) ∧
    (2 * 2 ≤ 4 ∧ 4 < (2 + 1) * (2 + 1) ∧ 4 % 2 = 0) ∧ (2 * 2 ≤ 8 ∧ 8 < (2 + 1) * (2 + 1) ∧ 8 % 2 = 0) ∧
    (2 * 2 ≤ 7 ∧ 7 < (2 + 1) * (2 + 1) ∧ 7 % 2 = 1) ∧
    (3 * 3 ≤ 9 ∧ 9 < (3 + 1) * (3 + 1) ∧ Nat.Prime 3 ∧ 3 % 2 = 1 ∧ 3 ∣ 9) ∧
    (3 * 3 ≤ 15 ∧ 15 < (3 + 1) * (3 + 1) ∧ 3 ∣ 15 ∧ ∀ r : Nat, r.Prime → r ∣ 15 → r ≤ 3 → r ≤ 3) ∧
    (3 * 3 ≤ 10 ∧ 10 < (3 + 1) * (3 + 1) ∧ ∀ p : Nat, p.Prime → p % 2 = 1 → p ∣ 10 → 3 < p) ∧
    (Nat.Prime 3 ∧ Nat.Prime 5 ∧ 5 % 2 = 1 ∧ 3 ≤ 3 ∧ 3 ≤ 5 ∧ 3 * 5 < 2 ^ 32) := by
  refine ⟨by decide, by decide, by decide, by decide, ⟨by decide, by decide, Nat.prime_three, by decide, by decide⟩,
    ⟨by decide, by decide, by decide, fun _ _ _ h => h⟩, ⟨by decide, by decide, fun p hp h2 hd => ?_⟩,
    ⟨Nat.prime_three, by norm_num, by decide, by decide, by decide, by decide⟩⟩
  by_contra hle
  have h3 : p = 1 ∨ p = 3 := by omega
  rcases h3 with rfl | rfl
  · exact Nat.not_prime_one hp
  · omega

/-- RD 0 and 5, with a factor and without one; RD 6 and 7. -/
theorem witness_FactorWritesThreeRegisters :
    (0 : RegIx).val ≤ 5 ∧ (5 : RegIx).val ≤ 5 ∧ 5 < (6 : RegIx).val ∧ 5 < (7 : RegIx).val ∧
    factorFn (latched 0x00000505#32 225#32 0#32 0#32).latch.a.toNat = some ⟨5, 45, 176⟩ ∧
    factorFn (latched 0x00000505#32 10#32 0#32 0#32).latch.a.toNat = none := by decide

/-- By a reset and by a start, where FLAG was 1; by the completion of a word of all ones, where CODE becomes ILLEGAL. -/
theorem witness_FlagAndCodeChangeOnlyAtStartAndCompletion :
    (∃ t, step (idleAt [.reset]) = .next t ∧ t.flag ≠ (idleAt [.reset]).flag) ∧
    (∃ t, step (idleAt [wrCmd 6#32]) = .next t ∧ t.flag ≠ (idleAt [wrCmd 6#32]).flag) ∧
    (∃ t, step (latched 0xFFFFFFFF#32 0#32 0#32 0#32) = .next t ∧
      t.code ≠ (latched 0xFFFFFFFF#32 0#32 0#32 0#32).code) :=
  ⟨⟨_, rfl, by decide⟩, ⟨_, step_wrAt (o := 0x20) rfl (by decide) (by decide), by decide⟩, ⟨_, rfl, by decide⟩⟩

theorem witness_IdleEngineDoesNothingByItself :
    (idleAt [.completion true]).phase = .idle ∧ (idleAt [.completion true]).agenda = .completion true :: [] ∧
    (idleAt []).phase = .idle ∧ (idleAt []).agenda = [] := ⟨rfl, rfl, rfl, rfl⟩

end Sys2Proof.Tests
end

section
/-! PROOFS. The state of the block over one step (`10_state.md`): which step may change the phase, the data registers,
OVR, FLAG and CODE, and what a write of STATUS, CTRL, ID or a reserved offset does. -/

namespace Sys2Proof.Machine

/-! ## What a completion finishes with -/

/-- The arguments a command gives to `finish` at its completion, from the latch alone (R143, R146). -/
def commandFinish : Instr → Latch → Finish
  | .isprime rd _, l => isprimeFinish rd l
  | .gcd rd _ _, l => gcdFinish rd l
  | .powmod rd _ _ _, l => powmodFinish rd l
  | .inv rd _ _ _, l => invFinish rd l
  | .factor rd _, l => factorFinish rd l
  | .clr, _ => clrFinish

theorem exec_eq_finish (i : Instr) (s : State) : exec i s = .next (finish (commandFinish i s.latch) s) := by
  cases i <;> rfl

/-- What R32's table asks of a command's outcome: it writes only to the command's destinations, it is not ABORTED, and
it writes nothing where it is ILLEGAL. -/
def Finish.WritesAsTableOf (f : Finish) (i : Instr) : Prop :=
  (∀ p ∈ f.writes, p.1 ∈ destinations i) ∧ f.code ≠ .aborted ∧ (f.code = .illegal → f.writes = [])

theorem commandFinish_writesAsTableOf (i : Instr) (l : Latch) : (commandFinish i l).WritesAsTableOf i := by
  cases i with
  | isprime rd rs1 => simp [commandFinish, isprimeFinish, Finish.WritesAsTableOf, destinations]
  | gcd rd rs1 rs2 => simp [commandFinish, gcdFinish, Finish.WritesAsTableOf, destinations]
  | powmod rd rs1 rs2 rs3 =>
    simp only [commandFinish, powmodFinish]
    split_ifs <;> simp [Finish.WritesAsTableOf, destinations]
  | inv rd rs1 rs2 rs3 =>
    simp only [commandFinish, invFinish]
    split <;> simp [Finish.WritesAsTableOf, destinations]
  | factor rd rs1 =>
    simp only [commandFinish, factorFinish]
    split_ifs
    · split <;> simp [Finish.WritesAsTableOf, destinations]
    · simp [Finish.WritesAsTableOf, illegalFinish]
  | clr => simp [commandFinish, clrFinish, Finish.WritesAsTableOf, destinations]

/-- A completion that changes a data register is that of a command with the register among its destinations, and its
outcome is neither ILLEGAL nor ABORTED (R32). -/
theorem completion_reg_ne {take : Bool} {s t : State} {k : RegIx} (h : completion take s = .next t)
    (hk : t.reg k ≠ s.reg k) :
    t.code ≠ .illegal ∧ t.code ≠ .aborted ∧ ∃ i, latchedInstr s.latch = some i ∧ k ∈ destinations i := by
  unfold completion completeNormally at h
  split at h
  · cases h
    exact absurd rfl hk
  · split at h
    · rename_i i hi
      rw [exec_eq_finish] at h
      cases h
      obtain ⟨hdest, haborted, hillegal⟩ := commandFinish_writesAsTableOf i s.latch
      refine ⟨fun hc => hk ?_, haborted, i, hi, ?_⟩
      · exact reg_congr (by simp [hillegal hc]) k
      · by_contra hnot
        exact hk ((finish_frame _ s _ hdest).1 k hnot)
    · cases h
      exact absurd rfl hk

/-- A completion leaves the phase IDLE, sets DONE, and keeps OVR and IE (R40, R144). -/
theorem completion_status {take : Bool} {s t : State} (h : completion take s = .next t) :
    t.phase = .idle ∧ t.done = true ∧ t.ovr = s.ovr ∧ t.ie = s.ie := by
  obtain ⟨f, hf⟩ := completion_finishes take s
  cases hf.symm.trans h
  exact ⟨rfl, rfl, rfl, rfl⟩

/-! ## What a host access changes -/

@[simp] theorem popAgenda_busy (s : State) : s.popAgenda.busy = s.busy := rfl
@[simp] theorem popAgenda_reg (s : State) (k : RegIx) : s.popAgenda.reg k = s.reg k := rfl

/-- A host step keeps the phase, FLAG and CODE, or it is the write of CMD that starts a command (R35, R39, R41, R52). -/
theorem hostStep_keepsEngine_or_starts {e : Transaction} {s t : State} (h : hostStep e s = .next t) :
    (t.phase = s.phase ∧ t.flag = s.flag ∧ t.code = s.code) ∨
    (s.phase = .idle ∧ ∃ v, writeTargetOf e = some .cmd ∧ e.access = .write v ∧
      t = { start v s with response := some .okayWrite }) := by
  obtain ⟨_, _, _, rfl⟩ | ⟨r, v, hr, hv, rfl⟩ := hostStep_readOrWrite h
  · exact .inl ⟨rfl, rfl, rfl⟩
  · rcases writeTarget_cases v s r with
      ⟨_, _, _, hw⟩ | ⟨rfl, hb, hw⟩ | ⟨_, _, hw⟩ | ⟨_, hw⟩ | ⟨_, hw⟩ | ⟨_, hw⟩
    · exact .inl (by simp [hw])
    · exact .inr ⟨(not_busy_iff s).1 hb, v, hr, hv, by rw [hw]⟩
    all_goals exact .inl (by simp [hw])

/-- A write that changes a data register is a write of the new value to it while IDLE (R31). -/
theorem writeTarget_reg_ne {v : Word} {s : State} {r : Target} {k : RegIx}
    (hk : (writeTarget v s r).reg k ≠ s.reg k) :
    s.phase = .idle ∧ r = .data k ∧ (writeTarget v s r).reg k = v := by
  rcases writeTarget_cases v s r with
    ⟨j, rfl, hb, hw⟩ | ⟨_, _, hw⟩ | ⟨_, _, hw⟩ | ⟨_, hw⟩ | ⟨_, hw⟩ | ⟨_, hw⟩
  case inl =>
    rw [hw, reg_set] at hk ⊢
    obtain rfl : j = k := by
      by_contra hj
      simp [hj] at hk
    exact ⟨(not_busy_iff s).1 hb, rfl, by simp⟩
  all_goals simp [hw] at hk

/-- A host step that changes a data register is a write of the new value to it while IDLE (R31, R32). -/
theorem hostStep_reg_ne {e : Transaction} {s t : State} {k : RegIx} (h : hostStep e s = .next t)
    (hk : t.reg k ≠ s.reg k) :
    s.phase = .idle ∧ writeTargetOf e = some (.data k) ∧ e.access = .write (t.reg k) := by
  obtain ⟨_, _, _, rfl⟩ | ⟨r, v, hr, hv, rfl⟩ := hostStep_readOrWrite h
  · exact absurd rfl hk
  · obtain ⟨hp, rfl, hval⟩ := writeTarget_reg_ne hk
    exact ⟨hp, hr, hv.trans (congrArg Access.write hval.symm)⟩

/-! ## OVR at each kind of next step -/

theorem completionSlot_ovr {take : Bool} {s t : State} (h : completionSlot take s = .next t) : t.ovr = s.ovr := by
  obtain ⟨_, rfl⟩ | ⟨_, hc⟩ := completionSlot_cases h
  · rfl
  · obtain ⟨_, _, hovr, _⟩ := completion_status hc
    exact hovr

/-- R40 at a host transaction, over the write it is, if it is one. -/
theorem hostStep_ovr {e : Transaction} {s t : State} {rest : List Event} (ha : s.agenda = .transaction e :: rest)
    (h : hostStep e s.popAgenda = .next t) : t.ovr = (s.dropsWriteNext || (s.ovr && !s.clearsOvrNext)) := by
  obtain ⟨hread, _, _, rfl⟩ | ⟨r, v, hr, hv, rfl⟩ := hostStep_readOrWrite h
  · simp [State.dropsWriteNext, State.clearsOvrNext, ha, writeTargetOf, hread]
  · simp only [State.dropsWriteNext, State.clearsOvrNext, ha, hr, hv]
    obtain ⟨_, rfl, (hb : s.busy = false), hw⟩ | ⟨rfl, (hb : s.busy = false), hw⟩ |
      ⟨(hb : s.busy = true), rfl | ⟨_, rfl⟩, hw⟩ | ⟨rfl, hw⟩ | ⟨rfl, hw⟩ | ⟨rfl | rfl, hw⟩ :=
      writeTarget_cases v s.popAgenda r
    · simp [hw, hb]
    · simp [hw, hb]
    · simp [hw, hb]
    · simp [hw, hb]
    all_goals simp [hw]

/-! ## A known next step -/

theorem popAgenda_of_cons {s : State} {e : Event} {rest : List Event} (h : s.agenda = e :: rest) :
    s.popAgenda = { s with agenda := rest } := by
  simp [State.popAgenda, h]

theorem resetsNext_of_cons {s : State} {rest : List Event} (h : s.agenda = .reset :: rest) :
    s.resetsNext = true := by
  simp [State.resetsNext, h]

theorem step_wrStatus {s : State} {v : Word} {rest : List Event} (h : s.agenda = wrStatus v :: rest) :
    step s = .next { writeStatus v { s with agenda := rest } with response := some .okayWrite } := by
  rw [← popAgenda_of_cons h]
  exact step_wrAt (o := 0x24) h (by decide) (by decide)

theorem step_wrCtrl {s : State} {v : Word} {rest : List Event} (h : s.agenda = wrCtrl v :: rest) :
    step s = .next { writeCtrl v { s with agenda := rest } with response := some .okayWrite } := by
  rw [← popAgenda_of_cons h]
  exact step_wrAt (o := 0x28) h (by decide) (by decide)

/-- STATUS[31:8], the upper part of the word, reads 0 (R42). -/
theorem statusWord_reserved (s : State) : s.statusWord.extractLsb 31 8 = 0#24 := by
  rw [State.statusWord, BitVec.extractLsb]
  iterate 5 rw [BitVec.extractLsb'_append_eq_of_le (by decide)]
  rfl

/-- CTRL[31:1] reads 0 (R44, R45). -/
theorem ctrlWord_reserved (s : State) : s.ctrlWord.extractLsb 31 1 = 0#31 :=
  BitVec.extractLsb'_append_eq_left

/-- The aligned offsets from 0x2C on are ID's and the reserved ones (R34). -/
theorem target_of_ge_id {o : Nat} (h : 0x2C ≤ o) (h64 : o < 64) (h4 : o % 4 = 0) :
    target o = if o = 0x2C then .id else .reserved := by
  obtain rfl | rfl | rfl | rfl | rfl : o = 0x2C ∨ o = 0x30 ∨ o = 0x34 ∨ o = 0x38 ∨ o = 0x3C := by omega
  all_goals rfl

/-! ## The statements -/

/-- Settles O32: the inversion of a step, and of what its completion or its host access does to one register. -/
theorem dataRegistersChangeOnlyWhereTheyMay : Obligations.DataRegistersChangeOnlyWhereTheyMay := by
  intro s t k h hk
  obtain ⟨_, rfl⟩ | ⟨hp, take, hc⟩ | ⟨e, rest, ha, hh⟩ | ⟨rest, ha, rfl⟩ := step_cases h
  · exact absurd rfl hk
  · obtain ⟨hill, habort, hdest⟩ := completion_reg_ne hc hk
    exact .inr (.inr ⟨hp, (completion_status hc).1, hill, habort, hdest⟩)
  · obtain ⟨hp, hr, hv⟩ := hostStep_reg_ne hh hk
    exact .inr (.inl ⟨hp, e, rest, ha, hr, hv⟩)
  · exact .inl (resetsNext_of_cons ha)

/-- Settles O31: a host step moves the phase only by a start, and every other step ends in phase IDLE. -/
theorem phaseChangesOnlyAtStartAndCompletion : Obligations.PhaseChangesOnlyAtStartAndCompletion := by
  intro s t h
  obtain ⟨hp, rfl⟩ | ⟨hp, take, hc⟩ | ⟨e, rest, ha, hh⟩ | ⟨rest, ha, rfl⟩ := step_cases h
  · simp [hp]
  · exact ⟨by simp [hp], fun _ _ => .inr ⟨take, hc⟩⟩
  · obtain ⟨hkeep, _, _⟩ | ⟨hp, v, hr, hv, rfl⟩ := hostStep_keepsEngine_or_starts hh
    · constructor <;> intro hs ht <;> simp [hkeep, hs] at ht
    · exact ⟨fun _ _ => ⟨e, rest, v, ha, hr, hv, rfl⟩, nofun⟩
  · exact ⟨nofun, fun _ _ => .inl (resetsNext_of_cons ha)⟩

/-- Settles O33, by the kind of step the agenda has next. -/
theorem ovrIsStickyAndSetByDroppedWrites : Obligations.OvrIsStickyAndSetByDroppedWrites := by
  intro s t h
  match ha : s.agenda with
  | [] =>
    have hslot : completionSlot s.finalAbort s = .next t := by simpa [step, advance, ha] using h
    simp [State.dropsWriteNext, State.clearsOvrNext, ha, completionSlot_ovr hslot]
  | .transaction e :: rest =>
    rw [step_cons ha] at h
    exact hostStep_ovr ha h
  | .completion take :: rest =>
    rw [step_cons ha] at h
    simp [State.dropsWriteNext, State.clearsOvrNext, ha, completionSlot_ovr (take := take) h]
  | .reset :: rest =>
    rw [step_cons ha] at h
    cases h
    simp [State.dropsWriteNext, State.clearsOvrNext, ha, State.reset]

/-- Settles O58: a host step keeps FLAG and CODE or is a start. -/
theorem flagAndCodeChangeOnlyAtStartAndCompletion : Obligations.FlagAndCodeChangeOnlyAtStartAndCompletion := by
  intro s t h hne
  obtain ⟨_, rfl⟩ | ⟨hp, take, hc⟩ | ⟨e, rest, ha, hh⟩ | ⟨rest, ha, rfl⟩ := step_cases h
  · simp at hne
  · exact .inr (.inl ⟨hp, (completion_status hc).1, take, hc⟩)
  · obtain ⟨_, hflag, hcode⟩ | ⟨hp, v, hr, hv, rfl⟩ := hostStep_keepsEngine_or_starts hh
    · simp [hflag, hcode] at hne
    · exact .inr (.inr ⟨hp, rfl, rfl, rfl, e, rest, v, ha, hr, hv⟩)
  · exact .inl (resetsNext_of_cons ha)

/-- Settles O15, by the effect of the write on DONE and OVR. -/
theorem statusWriteClearsOnlyDoneAndOvr : Obligations.StatusWriteClearsOnlyDoneAndOvr := by
  intro s v rest h
  refine ⟨_, step_wrStatus h, ?_, ?_, ?_, ?_, rfl, statusWord_reserved _⟩ <;> intro hv <;> simp [hv]

/-- Settles O16, by the effect of the write on IE and the abort request. -/
theorem ctrlWriteSetsEnableAndAbort : Obligations.CtrlWriteSetsEnableAndAbort := by
  intro s v rest h
  refine ⟨_, step_wrCtrl h, rfl, fun hv hp => ?_, fun hnot => ?_, rfl, ctrlWord_reserved _⟩
  · simp [hv, State.busy, hp]
  · obtain hv | hp := hnot
    · simp [hv]
    · simp [State.busy, hp]

/-- Settles O17: the offsets are those of ID and the reserved ones, whose writes do nothing. -/
theorem idAndReservedIgnoreWrites : Obligations.IdAndReservedIgnoreWrites := by
  intro s o v rest h hid h64 h4
  rw [step_wrAt h h64 h4, popAgenda_of_cons h, target_of_ge_id hid h64 h4]
  split
  · exact ⟨rfl, fun _ => rfl⟩
  · exact ⟨rfl, fun _ => rfl⟩

/-- Settles O36, from what a write of CTRL, a completion and a write of STATUS do to DONE and IE. -/
theorem irqFollowsDoneAndEnable : Obligations.IrqFollowsDoneAndEnable := by
  refine ⟨fun s => by simp [State.irq], fun s v rest h => ⟨_, step_wrCtrl h, rfl, rfl⟩, fun s t take h => ?_,
    fun s v rest h hv => ⟨_, step_wrStatus h, by simp [State.irq, hv]⟩⟩
  obtain ⟨_, hdone, _, hie⟩ := completion_status h
  simp [State.irq, hdone, hie]

/-- Settles O37, by the fields of the reset state. -/
theorem resetValues : Obligations.ResetValues :=
  ⟨reset_reg, rfl, rfl, rfl, rfl, rfl, rfl, rfl, rfl, rfl, rfl, rfl⟩

end Sys2Proof.Machine
end

section
/-! PROOFS. The memory-mapped window (`20_memory.md`): a read returns its register and changes no other part of the
block. -/

namespace Sys2Proof.Machine

/-- What a register reads depends neither on the steps to come nor on the answer the bus last gave. -/
theorem readTarget_agenda_response (s : State) (agenda : List Event) (response : Option Response) (r : Target) :
    readTarget { s with agenda := agenda, response := response } r = readTarget s r := by
  cases r <;> rfl

/-- A supported read in the window, whatever the state: it answers with its register and changes nothing else (R75). -/
theorem hostStep_of_supported_read {t : Transaction} {o : Nat} (s : State) (ho : windowOffset t.addr = some o)
    (hs : t.supported o = true) (hr : t.access = .read) :
    hostStep t s = .next { s with response := some (.okayRead (readTarget s (target o))) } := by
  simp [hostStep, ho, access_read s hs hr]

/-- A step that is a supported read of the window leaves the next state with its answer, the rest of the agenda, and
every other field as it was (R75). -/
theorem step_of_supported_read {s : State} {t : Transaction} {rest : List Event} {o : Nat}
    (ha : s.agenda = .transaction t :: rest) (ho : windowOffset t.addr = some o) (hs : t.supported o = true)
    (hr : t.access = .read) :
    step s = .next { s with agenda := rest, response := some (.okayRead (readTarget s (target o))) } := by
  rw [step_cons ha, popAgenda_of_cons ha]
  exact hostStep_of_supported_read _ ho hs hr

/-- A transaction completes only where the block supports it: at a single aligned beat inside the window (R72). -/
theorem supported_of_transaction_completes {s s' : State} {t : Transaction} {rest : List Event}
    (ha : s.agenda = .transaction t :: rest) (h : step s = .next s') :
    ∃ o, windowOffset t.addr = some o ∧ t.supported o = true := by
  rw [step_cons ha] at h
  obtain ⟨o, ho, hs, _⟩ := hostStep_cases h
  exact ⟨o, ho, hs⟩

/-! ## The statements -/

/-- Settles O11: the answer of the first read is also what the register reads in the state after it, so the second read
answers the same. -/
theorem noReadHasASideEffect : Obligations.NoReadHasASideEffect := by
  intro s s' t rest ha hr h
  obtain ⟨o, ho, hs⟩ := supported_of_transaction_completes ha h
  have hs' : s' = { s with agenda := rest, response := some (.okayRead (readTarget s (target o))) } :=
    Host.Outcome.next.inj (h.symm.trans (step_of_supported_read ha ho hs hr))
  refine ⟨by rw [hs'], fun rest' hrest => ?_⟩
  have hagenda : s'.agenda = .transaction t :: rest' := by rw [hs', ← hrest]
  have hanswer : s'.response = some (.okayRead (readTarget s' (target o))) := by
    rw [hs', readTarget_agenda_response s rest]
  rw [step_of_supported_read hagenda ho hs hr, ← hanswer]

end Sys2Proof.Machine
end

section
/-! PROOFS. The command word (`30_encoding.md`): the decoder and the encoder undo each other, the match and mask table
and the predicate `legal` say what the decoder says, and the assembler's canonical forms. -/

namespace Sys2Proof

/-! ## The word as its fields -/

/-- A word is put together from OP, its register fields and its reserved bits (R101). -/
theorem toNat_eq_sum_slices (w : Word) : w.toNat =
    (w.extractLsb 3 0).toNat + 2 ^ 4 * (w.extractLsb 7 4).toNat + 2 ^ 8 * (w.extractLsb 10 8).toNat +
    2 ^ 11 * (w.extractLsb 11 11).toNat + 2 ^ 12 * (w.extractLsb 14 12).toNat +
    2 ^ 15 * (w.extractLsb 15 15).toNat + 2 ^ 16 * (w.extractLsb 18 16).toNat +
    2 ^ 19 * (w.extractLsb 19 19).toNat + 2 ^ 20 * (w.extractLsb 22 20).toNat +
    2 ^ 23 * (w.extractLsb 31 23).toNat := by
  simp only [BitVec.extractLsb_toNat, Nat.shiftRight_eq_div_pow]
  omega

/-- So two words are equal when each of these parts is (R101). -/
theorem word_eq_iff_slices (w v : Word) : w = v ↔
    w.extractLsb 3 0 = v.extractLsb 3 0 ∧ w.extractLsb 7 4 = v.extractLsb 7 4 ∧
    w.extractLsb 10 8 = v.extractLsb 10 8 ∧ w.extractLsb 11 11 = v.extractLsb 11 11 ∧
    w.extractLsb 14 12 = v.extractLsb 14 12 ∧ w.extractLsb 15 15 = v.extractLsb 15 15 ∧
    w.extractLsb 18 16 = v.extractLsb 18 16 ∧ w.extractLsb 19 19 = v.extractLsb 19 19 ∧
    w.extractLsb 22 20 = v.extractLsb 22 20 ∧ w.extractLsb 31 23 = v.extractLsb 31 23 := by
  constructor
  · rintro rfl
    simp
  · rintro ⟨h0, h1, h2, h3, h4, h5, h6, h7, h8, h9⟩
    apply BitVec.eq_of_toNat_eq
    rw [toNat_eq_sum_slices w, toNat_eq_sum_slices v, h0, h1, h2, h3, h4, h5, h6, h7, h8, h9]

/-- A word with its reserved bits 0 is the `enc` of its own fields (R102). -/
theorem enc_fields {w : Word} (h : reservedBitsZero w = true) :
    enc (opField w).toNat (rdField w) (rs1Field w) (rs2Field w) (rs3Field w) = w := by
  have hw := (reservedBitsZero_iff w).1 h
  apply BitVec.eq_of_toNat_eq
  rw [enc_toNat _ _ _ _ _ (opField w).isLt, opField_toNat, rdField_val, rs1Field_val, rs2Field_val, rs3Field_val]
  omega

theorem rdField_eq_zero_iff (w : Word) : rdField w = 0 ↔ w.extractLsb 10 8 = 0#3 := BitVec.toFin_inj
theorem rs1Field_eq_zero_iff (w : Word) : rs1Field w = 0 ↔ w.extractLsb 14 12 = 0#3 := BitVec.toFin_inj
theorem rs2Field_eq_zero_iff (w : Word) : rs2Field w = 0 ↔ w.extractLsb 18 16 = 0#3 := BitVec.toFin_inj
theorem rs3Field_eq_zero_iff (w : Word) : rs3Field w = 0 ↔ w.extractLsb 22 20 = 0#3 := BitVec.toFin_inj

/-! ## The decoder at each value of OP (R105) -/

section decodeFields
variable (rd rs1 rs2 rs3 : RegIx)

theorem decodeFields_isprime : decodeFields 1#4 rd rs1 rs2 rs3 =
    if rs2 = 0 ∧ rs3 = 0 then .ok (.isprime rd rs1) else .error .unusedField := rfl

theorem decodeFields_gcd : decodeFields 2#4 rd rs1 rs2 rs3 =
    if rs3 = 0 then .ok (.gcd rd rs1 rs2) else .error .unusedField := rfl

theorem decodeFields_powmod : decodeFields 3#4 rd rs1 rs2 rs3 = .ok (.powmod rd rs1 rs2 rs3) := rfl

theorem decodeFields_inv : decodeFields 4#4 rd rs1 rs2 rs3 = .ok (.inv rd rs1 rs2 rs3) := rfl

theorem decodeFields_factor : decodeFields 5#4 rd rs1 rs2 rs3 =
    if rs2 = 0 ∧ rs3 = 0 then
      if factorDestinationOk rd then .ok (.factor rd rs1) else .error .factorDestination
    else .error .unusedField := rfl

theorem decodeFields_clr : decodeFields 6#4 rd rs1 rs2 rs3 =
    if rd = 0 ∧ rs1 = 0 ∧ rs2 = 0 ∧ rs3 = 0 then .ok .clr else .error .unusedField := rfl

theorem decodeFields_reservedOpcode {op : BitVec 4} (h : op ∉ [0x1#4, 0x2#4, 0x3#4, 0x4#4, 0x5#4, 0x6#4]) :
    decodeFields op rd rs1 rs2 rs3 = .error .reservedOpcode := by
  have hop : op.toNat = 0 ∨ 6 < op.toNat := by
    revert op
    decide
  rw [decodeFields]
  split
  case h_7 => rfl
  all_goals omega

end decodeFields

/-- An `enc` decodes as the fields it was made from (R102). -/
theorem decode_enc {op : Nat} (rd rs1 rs2 rs3 : RegIx) (h : op < 16) :
    decode (enc op rd rs1 rs2 rs3) = decodeFields (BitVec.ofNat 4 op) rd rs1 rs2 rs3 := by
  rw [decode_of_reservedBitsZero (reservedBitsZero_enc op rd rs1 rs2 rs3 h), opField_enc op rd rs1 rs2 rs3 h,
    rdField_enc op rd rs1 rs2 rs3 h, rs1Field_enc op rd rs1 rs2 rs3 h, rs2Field_enc op rd rs1 rs2 rs3 h,
    rs3Field_enc op rd rs1 rs2 rs3 h]

/-! ## The rows of the match and mask table (R106) -/

theorem and_of_eq_allOnes {n : Nat} {x m : BitVec n} (h : m = BitVec.allOnes n) : x &&& m = x := by
  rw [h, BitVec.and_allOnes]

theorem and_of_eq_zero {n : Nat} {x m : BitVec n} (h : m = 0#n) : x &&& m = 0#n := by
  rw [h, BitVec.and_zero]


/-- `w AND m = b`, part by part. -/
theorem and_eq_iff_slices (w m b : Word) : w &&& m = b ↔
    w.extractLsb 3 0 &&& m.extractLsb 3 0 = b.extractLsb 3 0 ∧
    w.extractLsb 7 4 &&& m.extractLsb 7 4 = b.extractLsb 7 4 ∧
    w.extractLsb 10 8 &&& m.extractLsb 10 8 = b.extractLsb 10 8 ∧
    w.extractLsb 11 11 &&& m.extractLsb 11 11 = b.extractLsb 11 11 ∧
    w.extractLsb 14 12 &&& m.extractLsb 14 12 = b.extractLsb 14 12 ∧
    w.extractLsb 15 15 &&& m.extractLsb 15 15 = b.extractLsb 15 15 ∧
    w.extractLsb 18 16 &&& m.extractLsb 18 16 = b.extractLsb 18 16 ∧
    w.extractLsb 19 19 &&& m.extractLsb 19 19 = b.extractLsb 19 19 ∧
    w.extractLsb 22 20 &&& m.extractLsb 22 20 = b.extractLsb 22 20 ∧
    w.extractLsb 31 23 &&& m.extractLsb 31 23 = b.extractLsb 31 23 := by
  simp only [word_eq_iff_slices, BitVec.extractLsb_and]

/-- A row covers the words with its OP, their reserved bits 0 and each field its mask does not leave free 0 (R106). -/
theorem covers_iff {r : OpcodeRow} (hr : r ∈ opcodeRows) (w : Word) : r.covers w = true ↔
    reservedBitsZero w = true ∧ opField w = opField r.bits ∧ (rdField r.mask ≠ 0 → rdField w = 0) ∧
    (rs1Field r.mask ≠ 0 → rs1Field w = 0) ∧ (rs2Field r.mask ≠ 0 → rs2Field w = 0) ∧
    (rs3Field r.mask ≠ 0 → rs3Field w = 0) := by
  simp only [OpcodeRow.covers, beq_iff_eq, and_eq_iff_slices, reservedBitsZero, Bool.and_eq_true,
    rdField_eq_zero_iff, rs1Field_eq_zero_iff, rs2Field_eq_zero_iff, rs3Field_eq_zero_iff, opField]
  simp only [opcodeRows, List.mem_cons, List.not_mem_nil, or_false] at hr
  rcases hr with rfl | rfl | rfl | rfl | rfl | rfl
  -- the mask has all ones or all zeros in each part, so it keeps that part of the word or drops it
  all_goals
    simp (disch := decide) [isprimeRow, gcdRow, powmodRow, invRow, factorRow, clrRow, and_of_eq_allOnes,
      and_of_eq_zero]
    tauto

/-- The rows have different values of OP. -/
theorem opField_bits_inj :
    ∀ r ∈ opcodeRows, ∀ r' ∈ opcodeRows, opField r.bits = opField r'.bits → r = r' := by
  decide

theorem row_unique {w : Word} {r r' : OpcodeRow} (hr : r ∈ opcodeRows) (hr' : r' ∈ opcodeRows)
    (h : r.covers w = true) (h' : r'.covers w = true) : r = r' := by
  obtain ⟨_, hop, _⟩ := (covers_iff hr w).1 h
  obtain ⟨_, hop', _⟩ := (covers_iff hr' w).1 h'
  exact opField_bits_inj r hr r' hr' (hop.symm.trans hop')

theorem row_mem_opcodeRows (i : Instr) : i.row ∈ opcodeRows := by
  cases i <;> simp [Instr.row, opcodeRows]

/-- A word that decodes is covered by its command's row (R105, R106). -/
theorem row_covers_of_decode {w : Word} {i : Instr} (h : decode w = .ok i) : i.row.covers w = true := by
  rw [covers_iff (row_mem_opcodeRows i)]
  obtain ⟨hres, hcase⟩ := decode_cases h
  refine ⟨hres, ?_⟩
  obtain ⟨hop, h2, h3, rfl⟩ | ⟨hop, h3, rfl⟩ | ⟨hop, rfl⟩ | ⟨hop, rfl⟩ | ⟨hop, h2, h3, _, rfl⟩ |
    ⟨hop, hd, h1, h2, h3, rfl⟩ := hcase
  all_goals
    refine ⟨BitVec.eq_of_toNat_eq hop, ?_⟩
    simp only [Instr.row]
  · exact ⟨absurd rfl, absurd rfl, fun _ => h2, fun _ => h3⟩
  · exact ⟨absurd rfl, absurd rfl, absurd rfl, fun _ => h3⟩
  · exact ⟨absurd rfl, absurd rfl, absurd rfl, absurd rfl⟩
  · exact ⟨absurd rfl, absurd rfl, absurd rfl, absurd rfl⟩
  · exact ⟨absurd rfl, absurd rfl, fun _ => h2, fun _ => h3⟩
  · exact ⟨fun _ => hd, fun _ => h1, fun _ => h2, fun _ => h3⟩

/-- A word a row covers decodes to a command of the row, but for FACTOR past D5 (R106, R107). -/
theorem decode_of_row_covers {w : Word} {r : OpcodeRow} (hr : r ∈ opcodeRows) (h : r.covers w = true)
    (hf : r = factorRow → (rdField w).val ≤ 5) : ∃ i, decode w = .ok i ∧ i.row = r := by
  obtain ⟨hres, hop, hd, h1, h2, h3⟩ := (covers_iff hr w).1 h
  rw [decode_of_reservedBitsZero hres, hop]
  simp only [opcodeRows, List.mem_cons, List.not_mem_nil, or_false] at hr
  rcases hr with rfl | rfl | rfl | rfl | rfl | rfl
  · exact ⟨_, (decodeFields_isprime ..).trans (if_pos ⟨h2 (by decide), h3 (by decide)⟩), rfl⟩
  · exact ⟨_, (decodeFields_gcd ..).trans (if_pos (h3 (by decide))), rfl⟩
  · exact ⟨_, decodeFields_powmod .., rfl⟩
  · exact ⟨_, decodeFields_inv .., rfl⟩
  · have hok : factorDestinationOk (rdField w) = true := decide_eq_true (hf rfl)
    refine ⟨.factor (rdField w) (rs1Field w), (decodeFields_factor ..).trans ?_, rfl⟩
    rw [if_pos ⟨h2 (by decide), h3 (by decide)⟩, if_pos hok]
  · have hzero : rdField w = 0 ∧ rs1Field w = 0 ∧ rs2Field w = 0 ∧ rs3Field w = 0 :=
      ⟨hd (by decide), h1 (by decide), h2 (by decide), h3 (by decide)⟩
    exact ⟨.clr, (decodeFields_clr ..).trans (if_pos hzero), rfl⟩

/-- FACTOR with RD = 6 or 7 is rejected for its destination (R107). -/
theorem decode_factor_past_d5 {w : Word} (h : factorRow.covers w = true) (hd : 5 < (rdField w).val) :
    decode w = .error .factorDestination := by
  obtain ⟨hres, hop, _, _, h2, h3⟩ := (covers_iff (by simp [opcodeRows]) w).1 h
  have hno : ¬factorDestinationOk (rdField w) = true := by simpa [factorDestinationOk] using hd
  rw [decode_of_reservedBitsZero hres, hop]
  refine (decodeFields_factor ..).trans ?_
  rw [if_pos ⟨h2 (by decide), h3 (by decide)⟩, if_neg hno]

/-- The mask of R108 is that of the reserved bits. -/
theorem and_reservedMask_iff (w : Word) : w &&& 0xFF8888F0#32 = 0#32 ↔ reservedBitsZero w = true := by
  simp (disch := decide) [and_eq_iff_slices, and_of_eq_allOnes, and_of_eq_zero, reservedBitsZero, and_assoc]

/-- CLR's clause in R108: bits 22:8 are its four register fields and three reserved bits. -/
theorem registerBits_eq_zero_iff {w : Word} (h : reservedBitsZero w = true) : w.extractLsb 22 8 = 0#15 ↔
    rdField w = 0 ∧ rs1Field w = 0 ∧ rs2Field w = 0 ∧ rs3Field w = 0 := by
  have hw := (reservedBitsZero_iff w).1 h
  simp only [BitVec.toNat_eq, Fin.ext_iff, rdField_val, rs1Field_val, rs2Field_val, rs3Field_val,
    BitVec.extractLsb_toNat, Nat.shiftRight_eq_div_pow, BitVec.toNat_ofNat, Fin.val_zero]
  omega

/-- `legal` over the fields (R108): the mask is that of the reserved bits, and a field the row does not use is 0. -/
theorem legal_iff (w : Word) : legal w = true ↔ reservedBitsZero w = true ∧
    opField w ∈ [0x1#4, 0x2#4, 0x3#4, 0x4#4, 0x5#4, 0x6#4] ∧
    (opField w = 1#4 → rs2Field w = 0 ∧ rs3Field w = 0) ∧
    (opField w = 2#4 → rs3Field w = 0) ∧
    (opField w = 5#4 → (rs2Field w = 0 ∧ rs3Field w = 0) ∧ factorDestinationOk (rdField w) = true) ∧
    (opField w = 6#4 → rdField w = 0 ∧ rs1Field w = 0 ∧ rs2Field w = 0 ∧ rs3Field w = 0) := by
  have hop : w.extractLsb 3 0 = opField w := rfl
  have hrd : decide ((w.extractLsb 10 8).toNat ≤ 5) = factorDestinationOk (rdField w) := rfl
  rw [legal, hop, hrd]
  simp only [Bool.and_eq_true, Bool.or_eq_true, beq_iff_eq, bne_iff_ne, List.contains_iff_mem,
    and_reservedMask_iff, ← rs2Field_eq_zero_iff, ← rs3Field_eq_zero_iff, ← imp_iff_not_or, and_assoc]
  refine and_congr_right fun hr => ?_
  rw [registerBits_eq_zero_iff hr]

/-- `legal` says that the decoder reads a command (R108). -/
theorem legal_iff_decode_ok (w : Word) : legal w = true ↔ ∃ i, decode w = .ok i := by
  rw [legal_iff]
  by_cases hr : reservedBitsZero w = true
  · rw [decode_of_reservedBitsZero hr]
    by_cases hop : opField w ∈ [0x1#4, 0x2#4, 0x3#4, 0x4#4, 0x5#4, 0x6#4]
    · have h := hop
      simp only [List.mem_cons, List.not_mem_nil, or_false] at h
      obtain h | h | h | h | h | h := h
      · simp [h, hr, decodeFields_isprime, ite_eq_iff]
      · simp [h, hr, decodeFields_gcd, ite_eq_iff]
      · simp [h, hr, decodeFields_powmod]
      · simp [h, hr, decodeFields_inv]
      · simp [h, hr, decodeFields_factor, ite_eq_iff]
      · simp [h, hr, decodeFields_clr, ite_eq_iff]
    · simp only [decodeFields_reservedOpcode _ _ _ _ hop, hop, false_and, and_false, reduceCtorEq, exists_false]
  · simp [hr, decode]

/-! ## The assembler (R120, R121) -/

theorem Asm.register_eq_some_iff {k : Nat} {r : RegIx} : Asm.register k = some r ↔ k = r.val := by
  unfold Asm.register
  split
  · simp [Fin.ext_iff]
  · simp only [reduceCtorEq, false_iff]
    omega

/-- A line of D0 to D7 names those registers. -/
theorem Asm.mapM_register_eq_some_iff {operands : List Nat} {ks : List RegIx} :
    operands.mapM Asm.register = some ks ↔ operands = ks.map Fin.val := by
  induction operands generalizing ks with
  | nil => cases ks <;> simp
  | cons k operands ih => cases ks <;> simp [List.mapM_cons, Option.bind_eq_some_iff, Asm.register_eq_some_iff, ih]

/-- A line on D0 to D7 is the form of R120, if that is a command of the block. -/
theorem Asm.assemble_registers (m : Asm.Mnemonic) (ks : List RegIx) :
    Asm.assemble m (ks.map Fin.val) = (Asm.form m ks).filter Instr.wellFormed := by
  simp [Asm.assemble, Asm.mapM_register_eq_some_iff.2 rfl]

/-- ENCRYPT and DECRYPT have the forms of POWMOD (R121). -/
theorem Asm.form_pseudo (ks : List RegIx) :
    Asm.form .encrypt ks = Asm.form .powmod ks ∧ Asm.form .decrypt ks = Asm.form .powmod ks := by
  match ks with
  | [] | [_] | [_, _] | [_, _, _] | [_, _, _, _] | _ :: _ :: _ :: _ :: _ :: _ => exact ⟨rfl, rfl⟩

theorem Asm.assemble_pseudo (operands : List Nat) :
    Asm.assemble .encrypt operands = Asm.assemble .powmod operands ∧
    Asm.assemble .decrypt operands = Asm.assemble .powmod operands := by
  simp [Asm.assemble, Asm.form_pseudo]

theorem Asm.wellFormed_of_assemble {m : Asm.Mnemonic} {operands : List Nat} {i : Instr}
    (h : Asm.assemble m operands = some i) : i.WellFormed ∧ ∀ k ∈ operands, k < 8 := by
  unfold Asm.assemble at h
  split at h
  · cases h
  · rename_i ks hks
    obtain ⟨_, hwf⟩ := Option.filter_eq_some_iff.1 h
    obtain rfl := Asm.mapM_register_eq_some_iff.1 hks
    exact ⟨hwf, by simp⟩

/-! ## The statements -/

/-- Settles O1: a command's word is an `enc`, which decodes as its fields. -/
theorem decodeOfEncodeIsTheCommand : Obligations.DecodeOfEncodeIsTheCommand := by
  intro i hwf
  cases i with
  | isprime rd rs1 => exact decode_enc rd rs1 0 0 (op := 1) (by decide)
  | gcd rd rs1 rs2 => exact decode_enc rd rs1 rs2 0 (op := 2) (by decide)
  | powmod rd rs1 rs2 rs3 => exact decode_enc rd rs1 rs2 rs3 (op := 3) (by decide)
  | inv rd rs1 rs2 rs3 => exact decode_enc rd rs1 rs2 rs3 (op := 4) (by decide)
  | factor rd rs1 => exact (decode_enc rd rs1 0 0 (op := 5) (by decide)).trans (if_pos hwf)
  | clr => exact decode_enc 0 0 0 0 (op := 6) (by decide)

/-- Settles O2: the word is the `enc` of its own fields. -/
theorem decodedWordIsTheCommandsOwn : Obligations.DecodedWordIsTheCommandsOwn := by
  intro w i h
  obtain ⟨hres, hcase⟩ := decode_cases h
  have hw := enc_fields hres
  obtain ⟨hop, h2, h3, rfl⟩ | ⟨hop, h3, rfl⟩ | ⟨hop, rfl⟩ | ⟨hop, rfl⟩ | ⟨hop, h2, h3, hd, rfl⟩ |
    ⟨hop, hd, h1, h2, h3, rfl⟩ := hcase
  · exact ⟨rfl, by rwa [hop, h2, h3] at hw⟩
  · exact ⟨rfl, by rwa [hop, h3] at hw⟩
  · exact ⟨rfl, by rwa [hop] at hw⟩
  · exact ⟨rfl, by rwa [hop] at hw⟩
  · exact ⟨hd, by rwa [hop, h2, h3] at hw⟩
  · exact ⟨rfl, by rwa [hop, hd, h1, h2, h3] at hw⟩

/-- Settles O3, from the fields a row asks for. -/
theorem opcodeRowsSeparateTheCommands : Obligations.OpcodeRowsSeparateTheCommands :=
  ⟨fun _ _ => row_covers_of_decode, fun _ _ => decode_of_row_covers, fun _ _ _ => row_unique⟩

/-- Settles O4: both sides say that the word decodes, by R106's rows and the exception R107 makes. -/
theorem legalIsTheOpcodeTable : Obligations.LegalIsTheOpcodeTable := by
  intro w
  rw [legal_iff_decode_ok]
  constructor
  · rintro ⟨i, hi⟩
    refine ⟨⟨i.row, row_mem_opcodeRows i, row_covers_of_decode hi⟩, fun ⟨hf, hd⟩ => ?_⟩
    cases hi.symm.trans (decode_factor_past_d5 hf hd)
  · rintro ⟨⟨r, hr, hc⟩, hnot⟩
    obtain ⟨i, hi, _⟩ := decode_of_row_covers hr hc fun hf => not_lt.1 fun hd => hnot ⟨hf ▸ hc, hd⟩
    exact ⟨i, hi⟩

/-- Settles O8: a line of D0 to D7 assembles as its form, if that is well formed. -/
theorem assemblerTakesOnlyCommands : Obligations.AssemblerTakesOnlyCommands := by
  refine ⟨fun m ks i => Asm.wellFormed_of_assemble, fun d x => ⟨Asm.assemble_registers .isprime [d, x], rfl⟩,
    fun d a b => ⟨Asm.assemble_registers .gcd [d, a, b], rfl⟩,
    fun d b e m => ⟨Asm.assemble_registers .powmod [d, b, e, m], rfl⟩,
    fun d e z n => ⟨Asm.assemble_registers .inv [d, e, z, n], rfl⟩,
    fun d n => ⟨fun hd => ⟨?_, rfl⟩, fun hd => ?_⟩,
    ⟨rfl, rfl, rfl⟩, Asm.assemble_pseudo⟩
  · refine (Asm.assemble_registers .factor [d, n]).trans (Option.filter_some_pos ?_)
    exact decide_eq_true hd
  · refine (Asm.assemble_registers .factor [d, n]).trans (Option.filter_some_neg ?_)
    simpa [Instr.wellFormed, factorDestinationOk] using hd

end Sys2Proof
end

section
/-! PROOFS. A command word at its start and at its completion (`40_command_cycle.md` R141, R143): the latch holds what
the decoder reads, an illegal word ends ILLEGAL, and a command computes on the registers its fields named at the
start. -/

namespace Sys2Proof.Machine

/-- The latch of a start holds what the decoder reads from the word (R141, R143). -/
theorem latchedInstr_latchOperands (w : Word) (s : State) :
    latchedInstr (latchOperands w s) = (decode w).toOption := by
  by_cases h : legal w = true
  · have hres : reservedBitsZero w = true := ((legal_iff w).1 h).1
    rw [decode_of_reservedBitsZero hres]
    exact if_pos h
  · have hnone : latchedInstr (latchOperands w s) = none := if_neg h
    rw [hnone]
    match hd : decode w with
    | .ok i => exact absurd ((legal_iff_decode_ok w).2 ⟨i, hd⟩) h
    | .error _ => rfl

theorem latchedInstr_of_illegal {l : Latch} (h : legal l.word = false) : latchedInstr l = none := by
  simp [latchedInstr, h]

theorem completeNormally_of_some {s : State} {i : Instr} (h : latchedInstr s.latch = some i) :
    completeNormally s = exec i s := by
  simp [completeNormally, h]

theorem completeNormally_of_none {s : State} (h : latchedInstr s.latch = none) :
    completeNormally s = .next (finish illegalFinish s) := by
  simp [completeNormally, h]

theorem encodedFields (i : Instr) : Laws.EncodedFields.Statement i := by
  cases i with
  | isprime rd rs1 => exact Laws.EncodedFields.isprime rd rs1
  | gcd rd rs1 rs2 => exact Laws.EncodedFields.gcd rd rs1 rs2
  | powmod rd rs1 rs2 rs3 => exact Laws.EncodedFields.powmod rd rs1 rs2 rs3
  | inv rd rs1 rs2 rs3 => exact Laws.EncodedFields.inv rd rs1 rs2 rs3
  | factor rd rs1 => exact Laws.EncodedFields.factor rd rs1
  | clr => exact Laws.EncodedFields.clr

/-- A start with a command's word latches the contents of the command's source registers (R103, R141). -/
theorem latchOperands_encode (i : Instr) (s : State) :
    (latchOperands (encode i) s).a = s.reg (sourceA i) ∧ (latchOperands (encode i) s).b = s.reg (sourceB i) ∧
    (latchOperands (encode i) s).c = s.reg (sourceC i) := by
  obtain ⟨_, h1, h2, h3⟩ := encodedFields i
  simp [latchOperands, h1, h2, h3]

/-- A write of CMD while IDLE is a start (R35, R141). -/
theorem step_wrCmd_idle {s : State} {w : Word} {rest : List Event} (hp : s.phase = .idle)
    (h : s.agenda = wrCmd w :: rest) :
    step s = .next { start w { s with agenda := rest } with response := some .okayWrite } := by
  rw [step_wrAt (o := 0x20) h (by decide) (by decide), popAgenda_of_cons h, target_cmd, writeTarget, writeCmd]
  simp [State.busy, hp]

/-- The completion of a BUSY engine with no abort requested is the command's own outcome, whatever choice it carries
(R143, R150). -/
theorem step_completion_of_no_abortReq {s : State} {take : Bool} {rest : List Event} (hp : s.phase = .busy)
    (ha : s.abortReq = false) (h : s.agenda = .completion take :: rest) :
    step s = completeNormally { s with agenda := rest } := by
  rw [step_cons h, popAgenda_of_cons h]
  simp [runEvent, completionSlot, completion, hp, ha]

/-- A command's word written while IDLE and completed in the next step: the run is the command's meaning, on the state
the start left (R141, R143). -/
theorem run_start_completion {s : State} {w : Word} {i : Instr} {take : Bool} {rest : List Event}
    (hp : s.phase = .idle) (ha : s.agenda = wrCmd w :: .completion take :: rest) (hd : decode w = .ok i) :
    run 2 s = exec i { start w s with agenda := rest, response := some .okayWrite } := by
  have hlatched : latchedInstr (latchOperands w s) = some i := by
    rw [latchedInstr_latchOperands, hd]
    rfl
  have hcomplete := (step_completion_of_no_abortReq
    (s := { start w s with agenda := .completion take :: rest, response := some .okayWrite }) rfl rfl rfl).trans
    (completeNormally_of_some hlatched)
  rw [exec_eq_finish] at hcomplete ⊢
  exact (run_succ (step_wrCmd_idle hp ha)).trans (run_succ hcomplete)

/-! ## The statements -/

/-- Settles O5: a latch taken by a start has the word's own OP and RD. -/
theorem latchedCommandIsTheWordsOwn : Obligations.LatchedCommandIsTheWordsOwn :=
  fun w s => ⟨legal_iff_decode_ok w, latchedInstr_latchOperands w s⟩

/-- Settles O6: the word does not decode, so it is not legal and the latch holds no command. -/
theorem factorPastD7IsIllegal : Obligations.FactorPastD7IsIllegal := by
  rintro w s hc hd rfl
  have hdec := decode_factor_past_d5 hc hd
  have hill : legal s.latch.word = false := by
    rw [Bool.eq_false_iff, ne_eq, legal_iff_decode_ok]
    simp [hdec]
  exact ⟨hdec, _, completeNormally_of_none (latchedInstr_of_illegal hill), ⟨rfl, rfl, rfl, rfl⟩, rfl⟩

/-- Settles O23: the word decodes to the command, and the start latches its source registers. -/
theorem issuedCommandUsesTheOperandsAtStart : Obligations.IssuedCommandUsesTheOperandsAtStart := by
  intro s i take rest hp hwf ha
  obtain ⟨hA, hB, hC⟩ := latchOperands_encode i s
  have hrun := run_start_completion hp ha (decodeOfEncodeIsTheCommand i hwf)
  have hexec := exec_eq_finish i { start (encode i) s with agenda := rest, response := some .okayWrite }
  exact ⟨_, _, hrun.trans hexec, hexec, rfl, hA, hB, hC, rfl, rfl, rfl⟩

end Sys2Proof.Machine
end

section
/-! PROOFS. The command cycle (`40_command_cycle.md` R141 to R152): the start, the writes dropped while BUSY, the
completion and its abort choice, and the host accesses between a start and its completion. -/

namespace Sys2Proof.Machine

/-! ## Writes dropped while BUSY -/

/-- A write of CMD or of a data register while BUSY is dropped (R147, R148). -/
theorem writeTarget_of_busy {v : Word} {s : State} {r : Target} (hb : s.busy = true)
    (hr : r = .cmd ∨ ∃ k, r = .data k) : writeTarget v s r = dropWrite s := by
  obtain rfl | ⟨k, rfl⟩ := hr
  · simp [writeTarget, writeCmd, hb]
  · simp [writeTarget, writeData, hb]

/-- The step at such a write sets OVR and answers OKAY; no other field of the block changes (R40, R147, R148). -/
theorem step_wrAt_of_busy {s : State} {o : Nat} {v : Word} {rest : List Event} (hp : s.phase = .busy)
    (h : s.agenda = wrAt o v :: rest) (ho : o < 64) (h4 : o % 4 = 0)
    (hr : target o = .cmd ∨ ∃ k, target o = .data k) :
    step s = .next { s with ovr := true, agenda := rest, response := some .okayWrite } := by
  have hb : s.popAgenda.busy = true := (busy_iff s).2 hp
  rw [step_wrAt h ho h4, writeTarget_of_busy hb hr, popAgenda_of_cons h]
  rfl

/-! ## The completion and its abort choice -/

/-- What the latched command ends with when no abort is taken, from the latch alone (R143, R146). -/
def latchedFinish (l : Latch) : Finish :=
  match latchedInstr l with
  | some i => commandFinish i l
  | none => illegalFinish

theorem completeNormally_eq_finish (s : State) :
    completeNormally s = .next (finish (latchedFinish s.latch) s) := by
  unfold latchedFinish
  cases h : latchedInstr s.latch with
  | none => exact completeNormally_of_none h
  | some i => rw [completeNormally_of_some h, exec_eq_finish]

/-- With no abort requested, or with one that is not taken, a completion is the command's own outcome (R150 (a)). -/
theorem completion_of_not_taken {take : Bool} {s : State} (h : (s.abortReq && take) = false) :
    completion take s = completeNormally s := by
  simp [completion, h]

/-- A requested abort that is taken ends the command ABORTED (R150 (b)). -/
theorem completion_of_taken {s : State} (h : s.abortReq = true) :
    completion true s = .next (finish abortedFinish s) := by
  simp [completion, h]

theorem completionSlot_of_busy {take : Bool} {s : State} (hp : s.phase = .busy) :
    completionSlot take s = completion take s := by
  simp [completionSlot, hp]

/-- The step of a BUSY engine at a scheduled completion (R140, R144). -/
theorem step_completion_of_busy {s : State} {take : Bool} {rest : List Event} (hp : s.phase = .busy)
    (h : s.agenda = .completion take :: rest) : step s = completion take s.popAgenda :=
  (step_cons h).trans (completionSlot_of_busy hp)

/-- The step of a BUSY engine with nothing left on the agenda (R145). -/
theorem step_of_busy_of_nil {s : State} (hp : s.phase = .busy) (h : s.agenda = []) :
    step s = completion s.finalAbort s.popAgenda := by
  have htail : s.agenda.tail = s.agenda := by simp [h]
  have hpop : s.popAgenda = s := by simp only [State.popAgenda, htail]
  rw [hpop, ← completionSlot_of_busy hp]
  simp [step, advance, h]

/-- A command in progress whose completion comes next, without an abort, ends in its own outcome (R143, R144). -/
theorem step_of_completesNext {s : State} (h : s.CompletesNext) : step s = completeNormally s.popAgenda := by
  obtain ⟨hp, ⟨hnil, hnot⟩ | ⟨take, rest, hcons, hnot⟩⟩ := h
  · rw [step_of_busy_of_nil hp hnil]
    exact completion_of_not_taken hnot
  · rw [step_completion_of_busy hp hcons]
    exact completion_of_not_taken hnot

/-- A latch that agrees with its own word holds what a start with that word latches as the command (R141, R143). -/
theorem latchedInstr_of_consistent {l : Latch} (h : l.Consistent) :
    latchedInstr l = (decode l.word).toOption := by
  obtain ⟨hop, hrd⟩ := h
  rw [← latchedInstr_latchOperands l.word State.reset]
  unfold latchedInstr
  rw [hop, hrd]
  rfl

/-! ## Host accesses between a start and its completion -/

/-- A supported transaction in the window completes (R72). -/
theorem hostStep_of_supported {t : Transaction} {o : Nat} (s : State) (ho : windowOffset t.addr = some o)
    (hs : t.supported o = true) : ∃ s', hostStep t s = .next s' := by
  cases ha : t.access with
  | read => exact ⟨_, hostStep_of_supported_read s ho hs ha⟩
  | write v => exact ⟨_, by simp only [hostStep, ho, access_write s hs ha]; rfl⟩

/-- Host accesses made while BUSY leave the engine BUSY, and the data registers and latch as they are (R149, R152). -/
theorem run_transactions_of_busy {ts : List Transaction} {rest : List Event} {s t : State} (hp : s.phase = .busy)
    (ha : s.agenda = ts.map Event.transaction ++ rest) (hrun : run ts.length s = .next t) :
    t.phase = .busy ∧ t.regs = s.regs ∧ t.latch = s.latch ∧ t.agenda = rest := by
  induction ts generalizing s with
  | nil =>
    cases hrun
    exact ⟨hp, rfl, rfl, ha⟩
  | cons e ts ih =>
    obtain ⟨u, hstep, hrest⟩ := run_succ_cases hrun
    rw [step_cons ha] at hstep
    obtain ⟨hup, hureg, hulatch, huagenda⟩ := hostStep_busy (s := s.popAgenda) hp hstep
    obtain ⟨htp, htreg, htlatch, htagenda⟩ := ih hup (huagenda.trans (congrArg List.tail ha)) hrest
    exact ⟨htp, htreg.trans hureg, htlatch.trans hulatch, htagenda⟩

/-- Every transaction on the agenda is one the block supports: none is answered ERROR or misses the window (R71, R72).
-/
def SupportedTransactions (agenda : List Event) : Prop :=
  ∀ t, Event.transaction t ∈ agenda → ∃ o, windowOffset t.addr = some o ∧ t.supported o = true

/-- One step of a BUSY engine: it comes to IDLE, or a host access has left the agenda and it is still BUSY. -/
theorem step_of_busy_cases {s : State} (hp : s.phase = .busy) (hs : SupportedTransactions s.agenda) :
    ∃ s', step s = .next s' ∧
      (s'.phase = .idle ∨ (s'.phase = .busy ∧ ∃ e, s.agenda = e :: s'.agenda)) := by
  match ha : s.agenda with
  | [] =>
    obtain ⟨f, hf⟩ := completion_finishes s.finalAbort s.popAgenda
    exact ⟨_, (step_of_busy_of_nil hp ha).trans hf, .inl rfl⟩
  | .completion take :: rest =>
    obtain ⟨f, hf⟩ := completion_finishes take s.popAgenda
    exact ⟨_, (step_completion_of_busy hp ha).trans hf, .inl rfl⟩
  | .reset :: rest => exact ⟨_, step_cons ha, .inl rfl⟩
  | .transaction t :: rest =>
    obtain ⟨o, ho, hsup⟩ := hs t (by simp [ha])
    obtain ⟨s', hs'⟩ := hostStep_of_supported s.popAgenda ho hsup
    obtain ⟨hbusy, _, _, hagenda⟩ := hostStep_busy (s := s.popAgenda) hp hs'
    exact ⟨s', (step_cons ha).trans hs', .inr ⟨hbusy, _, by rw [hagenda, popAgenda_agenda, ha]; rfl⟩⟩

/-- By induction on the agenda: each step before the one that ends in IDLE takes an entry from it. -/
theorem run_of_busy_reaches_idle {s : State} (hp : s.phase = .busy) (hs : SupportedTransactions s.agenda) :
    ∃ k ≤ s.agenda.length + 1, ∃ t, run k s = .next t ∧ t.phase = .idle := by
  induction h : s.agenda generalizing s with
  | nil =>
    obtain ⟨s', hstep, hidle | ⟨_, e, ha⟩⟩ := step_of_busy_cases hp hs
    · exact ⟨1, by simp, s', run_succ hstep, hidle⟩
    · simp [h] at ha
  | cons e rest ih =>
    obtain ⟨s', hstep, hidle | ⟨hbusy, e', ha⟩⟩ := step_of_busy_cases hp hs
    · exact ⟨1, by simp, s', run_succ hstep, hidle⟩
    · obtain ⟨rfl, hrest⟩ : e = e' ∧ rest = s'.agenda := by simpa [h] using ha
      obtain ⟨k, hk, t, hrun, hidle⟩ := ih hbusy (fun t ht => hs t (by simp [ha, ht])) hrest.symm
      exact ⟨k + 1, by simpa using hk, t, (run_succ hstep).trans hrun, hidle⟩

/-! ## The statements -/

/-- Settles O25, from the two outcomes of a completion. -/
theorem requestedAbortAdmitsBothOutcomes : Obligations.RequestedAbortAdmitsBothOutcomes := by
  intro s take rest hp ha
  rw [step_completion_of_busy hp ha]
  refine ⟨?_, ?_, fun habort => completion_of_not_taken (by simp [habort])⟩
  · rintro - rfl
    exact completion_of_not_taken (by simp)
  · rintro habort rfl
    exact completion_of_taken habort

/-- Settles O29: both completions finish with what the one latch holds, on the same data registers. -/
theorem hostAccessesNeverChangeARunningCommand : Obligations.HostAccessesNeverChangeARunningCommand := by
  intro s t t' s' ts rest hp ha hrun ht hs
  obtain ⟨htp, htreg, htlatch, htagenda⟩ := run_transactions_of_busy hp ha hrun
  rw [completeNormally_eq_finish] at ht hs
  cases ht
  cases hs
  exact ⟨htp, htreg, htlatch, htagenda, by simp [htreg, htlatch]⟩

/-- Settles O30, by induction on the agenda. -/
theorem everyStartedCommandCompletes : Obligations.EveryStartedCommandCompletes :=
  fun _ hp hs => run_of_busy_reaches_idle hp hs

/-- Settles O13: the register at offset 4k is Dk. -/
theorem dataWriteWhileBusyIsDropped : Obligations.DataWriteWhileBusyIsDropped := by
  intro s k v rest hp ha
  exact step_wrAt_of_busy hp ha (by omega) (by omega) (.inr ⟨k, target_data k⟩)

/-- Settles O14: the register at offset 0x20 is CMD. -/
theorem commandWriteWhileBusyIsDropped : Obligations.CommandWriteWhileBusyIsDropped := by
  intro s w rest hp ha
  exact step_wrAt_of_busy hp ha (by decide) (by decide) (.inl target_cmd)

/-- Settles O20: the step is the start, which latches the word, its fields and the registers its source fields name. -/
theorem startLatchesTheCommand : Obligations.StartLatchesTheCommand := by
  intro s w rest hp ha
  have hread {j : RegIx} (k : RegIx) (hk : k.val = j.val) : s.reg j = s.reg k := congrArg s.reg (Fin.ext hk.symm)
  exact ⟨_, step_wrCmd_idle hp ha, rfl, rfl, rfl, hread (j := rs1Field w), hread (j := rs2Field w),
    hread (j := rs3Field w), rfl, rfl, rfl, rfl, rfl, rfl, rfl, rfl, rfl, rfl, rfl, rfl⟩

/-- Settles O21: a latch that agrees with its word holds the command the word decodes to. -/
theorem stepRunsTheDecodedCommand : Obligations.StepRunsTheDecodedCommand := by
  intro s i hnext hconsistent hdecode
  have hlatched : latchedInstr s.latch = some i := by
    rw [latchedInstr_of_consistent hconsistent, hdecode]
    rfl
  rw [step_of_completesNext hnext]
  exact completeNormally_of_some hlatched

end Sys2Proof.Machine
end

section
/-! PROOFS. ISPRIME (`41_isprime.md`): its trial division by 2 and by the odd numbers up to the square root is
primality, and its completion writes the answer. -/

namespace Sys2Proof.Machine

/-! ## Trial division decides primality -/

/-- With the number of divisions R163 allows, trial division meets every odd divisor from 3 up to the bound. -/
theorem trialDivision_from_three_iff (a r : Nat) :
    trialDivision a r ((r - 1) / 2) 3 = true ↔ ∀ k, 3 ≤ k → k ≤ r → k % 2 = 1 → ¬k ∣ a := by
  simp only [trialDivision_iff, Nat.dvd_iff_mod_eq_zero]
  constructor
  · intro h k h3 hr hodd
    obtain ⟨j, rfl⟩ : ∃ j, k = 3 + 2 * j := ⟨(k - 3) / 2, by omega⟩
    exact h j (by omega) hr
  · intro h j _ hr
    exact h (3 + 2 * j) (by omega) hr (by omega)

/-- An odd number has no even divisor, so its primality is decided by the odd numbers up to its square root. -/
theorem prime_iff_no_odd_divisor_le_sqrt {a : Nat} (h2 : 2 ≤ a) (hodd : a % 2 = 1) :
    a.Prime ↔ ∀ k, 3 ≤ k → k ≤ a.sqrt → k % 2 = 1 → ¬k ∣ a := by
  rw [Nat.prime_def_le_sqrt]
  constructor
  · rintro ⟨_, h⟩ k h3 hk _
    exact h k (by omega) hk
  · intro h
    refine ⟨h2, fun k hk2 hk hdvd => ?_⟩
    have hkodd : k % 2 = 1 := Nat.odd_iff.1 ((Nat.odd_iff.2 hodd).of_dvd_nat hdvd)
    exact h k (by omega) hk hkodd hdvd

/-- IsPrimeFn is exact primality (R162), whatever the size of the number. -/
theorem isPrimeFn_iff_prime (a : Nat) : isPrimeFn a = true ↔ a.Prime := by
  unfold isPrimeFn
  split_ifs with hle htwo heven
  · have hnot : ¬a.Prime := fun hp => absurd hp.two_le (by omega)
    simp [hnot]
  · simp [htwo, Nat.prime_two]
  · have hnot : ¬a.Prime := fun hp => htwo (hp.even_iff.1 (Nat.even_iff.2 heven))
    simp [hnot]
  · rw [trialDivision_from_three_iff, isqrt_eq_sqrt, prime_iff_no_odd_divisor_le_sqrt (by omega) (by omega)]

theorem isPrimeFn_eq_false_iff (a : Nat) : isPrimeFn a = false ↔ ¬a.Prime := by
  rw [← isPrimeFn_iff_prime, Bool.not_eq_true]

/-! ## What ISPRIME finishes with -/

theorem isprimeFinish_of_prime {l : Latch} (rd : RegIx) (h : l.a.toNat.Prime) :
    isprimeFinish rd l = ⟨.ok, true, [(rd, 1#32)]⟩ := by
  simp [isprimeFinish, (isPrimeFn_iff_prime _).2 h]

theorem isprimeFinish_of_not_prime {l : Latch} (rd : RegIx) (h : ¬l.a.toNat.Prime) :
    isprimeFinish rd l = ⟨.ok, false, [(rd, 0#32)]⟩ := by
  simp [isprimeFinish, (isPrimeFn_eq_false_iff _).2 h]

/-- A completion reports the CODE and FLAG it was given, with BUSY 0 and DONE 1 (R144). -/
theorem finish_completesWith (f : Finish) (s : State) : CompletesWith f.code f.flag (finish f s) :=
  ⟨rfl, rfl, rfl, rfl⟩

/-! ## The statements -/

/-- Settles O44: the bound below 2^32 is not needed. -/
theorem trialDivisionIsPrimality : Obligations.TrialDivisionIsPrimality :=
  fun a _ => isPrimeFn_iff_prime a

/-- Settles O45, from the outcome of ISPRIME for a prime and for any other operand. -/
theorem isprimeWritesPrimality : Obligations.IsprimeWritesPrimality := by
  intro rd rs1 s
  obtain ⟨hdest, _, _⟩ := commandFinish_writesAsTableOf (.isprime rd rs1) s.latch
  refine ⟨_, exec_eq_finish _ s, fun hprime => ?_, fun hnot => ?_, finish_frame _ s [rd] hdest⟩
  · rw [commandFinish, isprimeFinish_of_prime rd hprime]
    exact ⟨finish_reg_one .., finish_completesWith ..⟩
  · rw [commandFinish, isprimeFinish_of_not_prime rd hnot]
    exact ⟨finish_reg_one .., finish_completesWith ..⟩

end Sys2Proof.Machine
end

section
/-! PROOFS. GCD (`42_gcd.md`): where the guard takes the first operand and where the Euclidean loop answers the
mathematical gcd, and its completion writes the answer. -/

namespace Sys2Proof.Machine

/-! ## The guard and the loop -/

/-- The degenerate-order guard (R171). -/
theorem gcdFn_of_le {a b : Nat} (h : a ≤ b) : gcdFn a b = a :=
  if_pos h

/-- Past the guard, the `b` iterations the loop is given are enough to reach the gcd (R172, R173). -/
theorem gcdFn_of_lt {a b : Nat} (h : b < a) : gcdFn a b = Nat.gcd a b := by
  rw [gcdFn, if_neg (Nat.not_le.2 h), euclid_eq_gcd b a b le_rfl]

/-- GcdFn never exceeds its first argument, so its result fits a register as that operand does (R8). -/
theorem gcdFn_le_left (a b : Nat) : gcdFn a b ≤ a := by
  rcases Nat.lt_or_ge b a with h | h
  · rw [gcdFn_of_lt h]
    exact Nat.gcd_le_left b (Nat.zero_lt_of_lt h)
  · rw [gcdFn_of_le h]

/-- One turn of the loop as a recursion: its first argument again exceeds its second, so the guard does not fire (R171).
-/
theorem gcdFn_mod {a b : Nat} (hb : 0 < b) (h : b < a) : gcdFn a b = gcdFn b (a % b) := by
  rw [gcdFn_of_lt h, gcdFn_of_lt (Nat.mod_lt a hb), Nat.gcd_comm a b, Nat.gcd_rec b a, Nat.gcd_comm]

/-! ## The word written to RD -/

/-- A result below 2^32 is written whole (R8). -/
theorem resultWord_toNat {n : Nat} (h : n < 2 ^ 32) : (resultWord n).toNat = n :=
  (BitVec.toNat_ofNat n 32).trans (Nat.mod_eq_of_lt h)

/-- The guarded gcd of a latch's operands is written whole (R8). -/
theorem resultWord_gcdFn_toNat (x y : Word) :
    (resultWord (gcdFn x.toNat y.toNat)).toNat = gcdFn x.toNat y.toNat :=
  resultWord_toNat (Nat.lt_of_le_of_lt (gcdFn_le_left ..) x.isLt)

/-- FLAG of GCD is 1 exactly where the word written is 1 (R170). -/
theorem gcdFlag_iff_resultWord (x y : Word) :
    gcdFlag (gcdFn x.toNat y.toNat) = true ↔ resultWord (gcdFn x.toNat y.toNat) = 1#32 := by
  rw [gcdFlag, beq_iff_eq, ← BitVec.toNat_inj, resultWord_gcdFn_toNat]
  rfl

/-! ## The statements -/

/-- Settles O46, from the value of GcdFn on each side of the guard. -/
theorem guardedGcdAgainstTheMathematicalGcd : Obligations.GuardedGcdAgainstTheMathematicalGcd := by
  intro a b
  refine ⟨gcdFn_of_lt, fun heq => ?_, fun hlt => ?_, gcdFn_mod⟩
  · subst heq
    exact ⟨gcdFn_of_le le_rfl, Nat.gcd_self b⟩
  · have hguard : gcdFn a b = a := gcdFn_of_le hlt.le
    exact ⟨hguard, by rw [hguard, eq_comm, Nat.gcd_eq_left_iff_dvd]⟩

/-- Settles O47: RD gets the guarded gcd of the latched operands, uncut. -/
theorem gcdWritesTheGuardedGcd : Obligations.GcdWritesTheGuardedGcd := by
  intro rd rs1 rs2 s
  obtain ⟨hdest, _, _⟩ := commandFinish_writesAsTableOf (.gcd rd rs1 rs2) s.latch
  have hreg : (finish (gcdFinish rd s.latch) s).reg rd = resultWord (gcdFn s.latch.a.toNat s.latch.b.toNat) :=
    finish_reg_one ..
  have hnat := resultWord_gcdFn_toNat s.latch.a s.latch.b
  refine ⟨_, exec_eq_finish _ s, fun hle => ?guard, fun hlt => ?loop,
    ⟨_, finish_completesWith .., ?flag⟩, finish_frame _ s [rd] hdest⟩
  case guard => exact hreg.trans (BitVec.eq_of_toNat_eq (hnat.trans (gcdFn_of_le hle)))
  case loop => exact (congrArg BitVec.toNat hreg).trans (hnat.trans (gcdFn_of_lt hlt))
  case flag => exact (gcdFlag_iff_resultWord ..).trans (by rw [← hreg]; rfl)

end Sys2Proof.Machine
end

section
/-! PROOFS. POWMOD (`43_powmod.md`): square-and-multiply is the power modulo m, its products stay below 2^64, its
completion writes the answer, and two of them by an exponent and its inverse give the message back. -/

namespace Sys2Proof.Machine

/-! ## The value of the loop -/

/-- Square-and-multiply is the power modulo m, but for the unreduced 1 that e = 0 leaves where m = 1 (R184, R185). -/
theorem powFn_eq_pow_mod {b e m : Nat} (h : ¬(e = 0 ∧ m = 1)) : powFn b e m = b ^ e % m := by
  rw [powFn]
  rcases Nat.eq_zero_or_pos e with rfl | hpos
  · have hm : m ≠ 1 := fun hm => h ⟨rfl, hm⟩
    simpa [powLoop] using (Nat.one_mod_eq_one.2 hm).symm
  · rw [powLoop_eq m e 1 b e le_rfl hpos, one_mul]

theorem powFn_zero_one (b : Nat) : powFn b 0 1 = 1 := rfl

/-- A result is below the modulus, but for the 1 that e = 0 leaves where m = 1; so it fits a register as m does (R183).
-/
theorem powFn_le_modulus {m : Nat} (b e : Nat) (hm : 0 < m) : powFn b e m ≤ m := by
  by_cases h : e = 0 ∧ m = 1
  · obtain ⟨rfl, rfl⟩ := h
    exact (powFn_zero_one b).le
  · rw [powFn_eq_pow_mod h]
    exact (Nat.mod_lt _ hm).le

/-! ## The products of the loop -/

/-- Recording the products does not change what the loop answers (R182). -/
theorem powLoopTraced_fst (m : Nat) : ∀ n r s k, (powLoopTraced m n r s k).1 = powLoop m n r s k
  | 0, _, _, _ => rfl
  | n + 1, r, s, k => by
    rw [powLoopTraced, powLoop]
    split_ifs
    · exact powLoopTraced_fst m n _ _ _
    · exact powLoopTraced_fst m n _ _ _
    · rfl

/-- The accumulator and the square stay at most M where M is no less than the modulus, so every product of two of them
is at most M^2 (R183). -/
theorem powLoopTraced_product_le {m M : Nat} (hm : 0 < m) (hM : m ≤ M) :
    ∀ n r s k, r ≤ M → s ≤ M → ∀ x ∈ (powLoopTraced m n r s k).2, x ≤ M ^ 2
  | 0, _, _, _, _, _ => by simp [powLoopTraced]
  | n + 1, r, s, k, hr, hs => by
    have hmod (y : Nat) : y % m ≤ M := (Nat.mod_lt y hm).le.trans hM
    have hproduct : r * s ≤ M ^ 2 := (Nat.mul_le_mul hr hs).trans_eq (sq M).symm
    have hsquare : s * s ≤ M ^ 2 := (Nat.mul_le_mul hs hs).trans_eq (sq M).symm
    rw [powLoopTraced]
    split_ifs
    · simpa [hproduct, hsquare] using powLoopTraced_product_le hm hM n _ _ _ (hmod (r * s)) (hmod (s * s))
    · simpa [hsquare] using powLoopTraced_product_le hm hM n _ _ _ hr (hmod (s * s))
    · simp

/-! ## What POWMOD finishes with -/

/-- The open parameter is 0 or 1 (R6, R184). -/
theorem powE0M1_eq_zero_or_one : Config.powE0M1 = 0#32 ∨ Config.powE0M1 = 1#32 := by
  unfold Config.powE0M1
  split
  · exact .inr rfl
  · exact .inl rfl

theorem powmodFinish_of_modulus_zero {l : Latch} (rd : RegIx) (hc : l.c = 0#32) :
    powmodFinish rd l = ⟨.zeroModulus, false, [(rd, 0#32)]⟩ := by
  simp [powmodFinish, powmodFlag, hc]

theorem powmodFinish_of_modulus_one_exponent_zero {l : Latch} (rd : RegIx) (hc : l.c = 1#32) (hb : l.b = 0#32) :
    powmodFinish rd l = ⟨.ok, true, [(rd, Config.powE0M1)]⟩ := by
  simp [powmodFinish, powmodFlag, hc, hb]

theorem powmodFinish_of_power {l : Latch} (rd : RegIx) (hc : l.c ≠ 0#32) (hopen : ¬(l.c = 1#32 ∧ l.b = 0#32)) :
    powmodFinish rd l = ⟨.ok, true, [(rd, resultWord (l.a.toNat ^ l.b.toNat % l.c.toNat))]⟩ := by
  have hm : l.c.toNat ≠ 0 := fun h => hc (BitVec.eq_of_toNat_eq h)
  have he : ¬(l.b.toNat = 0 ∧ l.c.toNat = 1) := fun h =>
    hopen ⟨BitVec.eq_of_toNat_eq h.2, BitVec.eq_of_toNat_eq h.1⟩
  simp only [powmodFinish, powmodFlag, if_neg hm, if_neg he, powFn_eq_pow_mod he, bne_iff_ne.2 hm]

/-- A power modulo the latched modulus is written whole (R8, R183). -/
theorem finish_powmodFinish_reg_toNat {l : Latch} (rd : RegIx) (s : State) (hc : l.c ≠ 0#32)
    (hopen : ¬(l.c = 1#32 ∧ l.b = 0#32)) :
    ((finish (powmodFinish rd l) s).reg rd).toNat = l.a.toNat ^ l.b.toNat % l.c.toNat := by
  have hpos : 0 < l.c.toNat := Nat.pos_of_ne_zero fun h => hc (BitVec.eq_of_toNat_eq h)
  rw [powmodFinish_of_power rd hc hopen, finish_reg_one]
  exact resultWord_toNat ((Nat.mod_lt _ hpos).trans l.c.isLt)

/-- What POWMOD leaves in RD for a modulus above 1, where no case is open (R185). -/
theorem exec_powmod_reg_toNat {rd rs1 rs2 rs3 : RegIx} {s t : State} (hm : 1 < s.latch.c.toNat)
    (h : exec (.powmod rd rs1 rs2 rs3) s = .next t) :
    (t.reg rd).toNat = s.latch.a.toNat ^ s.latch.b.toNat % s.latch.c.toNat := by
  rw [exec_eq_finish] at h
  cases h
  refine finish_powmodFinish_reg_toNat rd s (fun hc => ?_) (fun ⟨hc, _⟩ => ?_) <;> simp [hc] at hm

/-! ## The round trip -/

/-- What INV finds is the inverse of e modulo z: `d * e` is one of the numbers `i * z + 1` searched (R191, R192). -/
theorem invFn_found_mul {e z n d : Nat} (h : invFn e z n = .found d) : ∃ i < n, d * e = i * z + 1 := by
  unfold invFn at h
  split at h
  · cases h
  · obtain ⟨hnone, _⟩ | ⟨i, hi, hmod, _, hfound⟩ := invSearch_cases e z n 0
    · cases hnone.symm.trans h
    · cases hfound.symm.trans h
      rw [Nat.zero_add] at hmod ⊢
      exact ⟨i, hi, Nat.div_mul_cancel (Nat.dvd_of_mod_eq_zero hmod)⟩

/-- Fermat's little theorem at an exponent that is 1 modulo p - 1, for every base. -/
theorem pow_modEq_self_of_prime {p k : Nat} (hp : p.Prime) (hk : p - 1 ∣ k) (b : Nat) : b ^ (k + 1) ≡ b [MOD p] := by
  have h := Int.ModEq.pow_eq_pow (x := k + 1) (y := 1) hp hk (by omega) one_pos b
  rw [pow_one] at h
  exact_mod_cast h

/-- The law behind R186: an exponent that is 1 modulo (p-1)(q-1) is no change modulo p * q. -/
theorem pow_modEq_self_of_two_primes {p q : Nat} (hp : p.Prime) (hq : q.Prime) (hpq : p ≠ q) (i b : Nat) :
    b ^ (i * ((p - 1) * (q - 1)) + 1) ≡ b [MOD p * q] := by
  have hmodp : p - 1 ∣ i * ((p - 1) * (q - 1)) := (Nat.dvd_mul_right ..).mul_left i
  have hmodq : q - 1 ∣ i * ((p - 1) * (q - 1)) := (Nat.dvd_mul_left ..).mul_left i
  exact (Nat.modEq_and_modEq_iff_modEq_mul ((Nat.coprime_primes hp hq).2 hpq)).1
    ⟨pow_modEq_self_of_prime hp hmodp b, pow_modEq_self_of_prime hq hmodq b⟩

/-! ## The statements -/

/-- Settles O48, from the loop invariant r * s^k; the bounds below 2^32 are not needed. -/
theorem squareAndMultiplyIsThePower : Obligations.SquareAndMultiplyIsThePower :=
  fun _ _ _ _ _ _ _ hopen => powFn_eq_pow_mod hopen

/-- Settles O49: the operands are at most 2^32 - 1, so every product is at most the square of that. -/
theorem powerProductsStayBelow64Bits : Obligations.PowerProductsStayBelow64Bits := by
  intro b e m hb he hm hlt
  refine ⟨powLoopTraced_fst m e 1 b e, fun x hx => ?_, (powFn_le_modulus b e hm).trans_lt hlt⟩
  have hle : x ≤ (2 ^ 32 - 1) ^ 2 :=
    powLoopTraced_product_le hm (by omega) e 1 b e (by omega) (by omega) x hx
  exact ⟨hle, hle.trans_lt (by norm_num)⟩

/-- Settles O50, from the outcome of POWMOD in each of its three cases. -/
theorem powmodWritesThePower : Obligations.PowmodWritesThePower := by
  intro rd rs1 rs2 rs3 s
  obtain ⟨hdest, _, _⟩ := commandFinish_writesAsTableOf (.powmod rd rs1 rs2 rs3) s.latch
  refine ⟨_, exec_eq_finish _ s, fun hc => ?zeroModulus, fun hc hb => ?openParameter, fun hc hopen => ?power,
    finish_frame _ s [rd] hdest⟩
  case zeroModulus =>
    rw [commandFinish, powmodFinish_of_modulus_zero rd hc]
    exact ⟨finish_reg_one .., finish_completesWith ..⟩
  case openParameter =>
    rw [commandFinish, powmodFinish_of_modulus_one_exponent_zero rd hc hb, finish_reg_one]
    exact ⟨rfl, powE0M1_eq_zero_or_one, finish_completesWith ..⟩
  case power =>
    refine ⟨finish_powmodFinish_reg_toNat rd s hc hopen, ?_⟩
    rw [commandFinish, powmodFinish_of_power rd hc hopen]
    exact finish_completesWith ..

/-- Settles O51: in either order the exponents multiply to 1 modulo (p-1)(q-1). -/
theorem encryptThenDecryptIsTheMessage : Obligations.EncryptThenDecryptIsTheMessage := by
  intro p q e d msg hp hq hpq _ _ _ hd rd rs1 rs2 rs3 s1 s2 t1 t2 x y hxy ha1 hb1 hc1 h1 ha2 hb2 hc2 h2
  obtain ⟨i, _, hi⟩ := invFn_found_mul hd
  have hprod : x * y = i * ((p - 1) * (q - 1)) + 1 := by
    obtain ⟨rfl, rfl⟩ | ⟨rfl, rfl⟩ := hxy
    · rw [mul_comm, hi]
    · exact hi
  have hn : 1 < p * q := hp.one_lt.trans_le (Nat.le_mul_of_pos_right p hq.pos)
  have hround : (t2.reg rd).toNat = msg % (p * q) := calc
    (t2.reg rd).toNat = (msg ^ x % (p * q)) ^ y % (p * q) := by
      rw [exec_powmod_reg_toNat (hc2 ▸ hn) h2, ha2, exec_powmod_reg_toNat (hc1 ▸ hn) h1, ha1, hb1, hc1, hb2, hc2]
    _ = msg ^ (x * y) % (p * q) := by rw [← Nat.pow_mod, pow_mul]
    _ = msg % (p * q) := by rw [hprod]; exact pow_modEq_self_of_two_primes hp hq hpq i msg
  exact ⟨hround, fun hlt => hround.trans (Nat.mod_eq_of_lt hlt)⟩

end Sys2Proof.Machine
end

section
/-! PROOFS. INV (`44_inverse.md`): the bounded search answers the least index below its bound, the extended-Euclidean
index is the least one, and INV's completion writes the quotient whole. -/

namespace Sys2Proof.Machine

/-! ## The least index of the search -/

/-- `i` is the least index with e dividing `i * z + 1`, whatever the bound: `min S` of R191 for a bound above `i`. -/
structure LeastIndex (e z i : Nat) : Prop where
  dvd : e ∣ i * z + 1
  least : ∀ j < i, ¬e ∣ j * z + 1

theorem invFn_zero (z n : Nat) : invFn 0 z n = .divZero :=
  if_pos rfl

theorem invFn_of_no_index {e z n : Nat} (he : e ≠ 0) (h : ∀ i < n, ¬e ∣ i * z + 1) : invFn e z n = .none := by
  rw [invFn, if_neg he]
  obtain ⟨hnone, _⟩ | ⟨i, hi, hmod, _, _⟩ := invSearch_cases e z n 0
  · exact hnone
  · rw [Nat.zero_add] at hmod
    exact absurd (Nat.dvd_of_mod_eq_zero hmod) (h i hi)

/-- The search finds the least index where it is below the bound, and nothing where the bound cuts it off (R191). -/
theorem LeastIndex.invFn_eq {e z i : Nat} (h : LeastIndex e z i) (he : e ≠ 0) (n : Nat) :
    invFn e z n = if i < n then .found ((i * z + 1) / e) else .none := by
  split_ifs with hi
  · rw [invFn, if_neg he]
    obtain ⟨_, hno⟩ | ⟨j, _, hmod, hbefore, hfound⟩ := invSearch_cases e z n 0
    · exact absurd (Nat.mod_eq_zero_of_dvd h.dvd) (by simpa using hno i hi)
    · rw [Nat.zero_add] at hmod hfound
      have hij : i ≤ j := not_lt.1 fun hlt => h.least j hlt (Nat.dvd_of_mod_eq_zero hmod)
      have hji : j ≤ i := not_lt.1 fun hlt => hbefore i hlt (by simpa using Nat.mod_eq_zero_of_dvd h.dvd)
      rw [hfound, le_antisymm hji hij]
  · exact invFn_of_no_index he fun j hj => h.least j (by omega)

/-! ## The Euclidean index is the least one -/

/-- A common divisor of e and z divides `i * z` and, through e, `i * z + 1` (R192). -/
theorem coprime_of_dvd_mul_add_one {e z i : Nat} (h : e ∣ i * z + 1) : Nat.Coprime e z :=
  Nat.dvd_one.1 ((Nat.dvd_add_right ((Nat.gcd_dvd_right e z).mul_left i)).1 ((Nat.gcd_dvd_left e z).trans h))

theorem eq_of_mul_modEq {m k x y : Nat} (hk : Nat.Coprime m k) (hx : x < m) (hy : y < m)
    (h : x * k ≡ y * k [MOD m]) : x = y :=
  (Nat.ModEq.cancel_right_of_coprime hk h).eq_of_lt_of_lt hx hy

theorem euclidIndex_cast {e : Nat} (he : e ≠ 0) (z : Nat) :
    (euclidIndex e z : Int) = -Nat.gcdA (z % e) e % e :=
  Int.toNat_of_nonneg (Int.emod_nonneg _ (by exact_mod_cast he))

theorem euclidIndex_lt {e : Nat} (he : e ≠ 0) (z : Nat) : euclidIndex e z < e := by
  have hlt := Int.emod_lt_of_pos (-Nat.gcdA (z % e) e) (b := e) (by omega)
  rw [← euclidIndex_cast he] at hlt
  exact_mod_cast hlt

/-- Bezout's identity for `z mod e` and e, read modulo e (R193). -/
theorem dvd_euclidIndex_mul_add_one {e z : Nat} (he : e ≠ 0) (h : Nat.Coprime e z) :
    e ∣ euclidIndex e z * z + 1 := by
  have hgcd : Nat.gcd (z % e) e = 1 := (Nat.gcd_rec e z).symm.trans h
  have hbezout := Nat.gcd_eq_gcd_ab (z % e) e
  rw [hgcd, Nat.cast_one] at hbezout
  have hindex : (euclidIndex e z : Int) ≡ -Nat.gcdA (z % e) e [ZMOD e] := by
    rw [euclidIndex_cast he]
    exact Int.mod_modEq _ _
  have hz : (z : Int) ≡ (z % e : Nat) [ZMOD e] := by
    rw [Int.natCast_mod]
    exact (Int.mod_modEq _ _).symm
  have hzero : (euclidIndex e z : Int) * z + 1 ≡ 0 [ZMOD e] := calc
    (euclidIndex e z : Int) * z + 1 ≡ -Nat.gcdA (z % e) e * (z % e : Nat) + 1 [ZMOD e] := (hindex.mul hz).add_right 1
    _ = e * Nat.gcdB (z % e) e := by rw [hbezout]; ring
    _ ≡ 0 [ZMOD e] := (Int.dvd_mul_right _ _).modEq_zero_int
  exact_mod_cast Int.modEq_zero_iff_dvd.1 hzero

/-- The indices below e are a full residue system, so only one of them is a solution where e and z are coprime (R192).
-/
theorem leastIndex_euclidIndex {e z : Nat} (he : e ≠ 0) (h : Nat.Coprime e z) :
    LeastIndex e z (euclidIndex e z) := by
  refine ⟨dvd_euclidIndex_mul_add_one he h, fun j hj hdvd => hj.ne ?_⟩
  have hlt := euclidIndex_lt he z
  have hmod : j * z + 1 ≡ euclidIndex e z * z + 1 [MOD e] :=
    hdvd.modEq_zero_nat.trans (dvd_euclidIndex_mul_add_one he h).modEq_zero_nat.symm
  exact eq_of_mul_modEq h (hj.trans hlt) hlt (Nat.ModEq.add_right_cancel' 1 hmod)

/-- `min S <= e - 1` (R192). -/
theorem LeastIndex.lt {e z i : Nat} (h : LeastIndex e z i) (he : e ≠ 0) : i < e := by
  have hcoprime := coprime_of_dvd_mul_add_one h.dvd
  have hle : i ≤ euclidIndex e z := not_lt.1 fun hlt => h.least _ hlt (dvd_euclidIndex_mul_add_one he hcoprime)
  exact hle.trans_lt (euclidIndex_lt he z)

/-- The quotient is at most z, but for the 1 that z = 0 gives; so it fits a register as z does (R192). -/
theorem LeastIndex.quotient_le {e z i : Nat} (h : LeastIndex e z i) (he : e ≠ 0) : (i * z + 1) / e ≤ max z 1 := by
  refine Nat.div_le_of_le_mul ?_
  calc
    i * z + 1 ≤ i * max z 1 + max z 1 := Nat.add_le_add (Nat.mul_le_mul_left i (le_max_left z 1)) (le_max_right z 1)
    _ = (i + 1) * max z 1 := (Nat.succ_mul ..).symm
    _ ≤ e * max z 1 := Nat.mul_le_mul_right _ (h.lt he)

/-! ## The rows of R195 -/

theorem leastIndex_one_left (z : Nat) : LeastIndex 1 z 0 :=
  ⟨one_dvd _, fun _ hj => absurd hj (Nat.not_lt_zero _)⟩

theorem leastIndex_one_right {e : Nat} (he : e ≠ 0) : LeastIndex e 1 (e - 1) where
  dvd := dvd_of_eq (by omega)
  least j hj := Nat.not_dvd_of_pos_of_lt (by omega) (by omega)

theorem invFn_one_left (z n : Nat) : invFn 1 z n = if 1 ≤ n then .found 1 else .none := by
  simpa [Nat.succ_le_iff] using (leastIndex_one_left z).invFn_eq one_ne_zero n

theorem invFn_one_right {e : Nat} (he : e ≠ 0) (n : Nat) : invFn e 1 n = if e ≤ n then .found 1 else .none := by
  have hquotient : (e - 1) * 1 + 1 = e := by omega
  have hbound : e - 1 < n ↔ e ≤ n := by omega
  simp only [(leastIndex_one_right he).invFn_eq he n, hquotient, hbound, Nat.div_self (Nat.pos_of_ne_zero he)]

theorem invFn_of_not_coprime {e z : Nat} (he : e ≠ 0) (h : ¬Nat.Coprime e z) (n : Nat) : invFn e z n = .none :=
  invFn_of_no_index he fun _ _ hdvd => h (coprime_of_dvd_mul_add_one hdvd)

theorem invFn_of_coprime {e z : Nat} (he : e ≠ 0) (h : Nat.Coprime e z) (n : Nat) :
    invFn e z n = if euclidIndex e z < n then .found ((euclidIndex e z * z + 1) / e) else .none :=
  (leastIndex_euclidIndex he h).invFn_eq he n

/-- The quotient at an index below e is the only inverse of e below z (R195). -/
theorem inverse_below_modulus_unique {e z i d : Nat} (hz : 2 ≤ z) (hi : i < e) (hd : d * e = i * z + 1) :
    1 ≤ d ∧ d ≤ z - 1 ∧ d * e % z = 1 ∧ ∀ d', d' < z → d' * e % z = 1 → d' = d := by
  have hpos : 1 ≤ d := Nat.pos_of_ne_zero fun h => by simp [h] at hd
  have hlt : d < z := by
    refine Nat.lt_of_mul_lt_mul_right (a := e) ?_
    calc
      d * e < i * z + z := by omega
      _ = (i + 1) * z := (Nat.succ_mul ..).symm
      _ ≤ z * e := Nat.mul_comm z e ▸ Nat.mul_le_mul_right z hi
  have hmod : d * e % z = 1 := by
    rw [hd, Nat.mul_add_mod_self_right, Nat.mod_eq_of_lt hz]
  have hcoprime : Nat.Coprime z e := (coprime_of_dvd_mul_add_one (hd ▸ Nat.dvd_mul_left e d)).symm
  exact ⟨hpos, Nat.le_sub_one_of_lt hlt, hmod, fun d' hd' h =>
    eq_of_mul_modEq hcoprime hd' hlt (h.trans hmod.symm)⟩

/-! ## What INV finishes with -/

theorem invFinish_of_zero {l : Latch} (rd : RegIx) (ha : l.a = 0#32) :
    invFinish rd l = ⟨.divZero, false, [(rd, 0#32)]⟩ := by
  simp [invFinish, ha, invFn_zero]

theorem invFinish_of_no_index {l : Latch} (rd : RegIx) (ha : l.a ≠ 0#32)
    (h : ∀ i < l.c.toNat, ¬l.a.toNat ∣ i * l.b.toNat + 1) :
    invFinish rd l = ⟨.noInverse, false, [(rd, 0#32)]⟩ := by
  rw [invFinish, invFn_of_no_index (BitVec.toNat_ne_iff_ne.2 ha) h]

theorem invFinish_of_leastIndex {l : Latch} {i : Nat} (rd : RegIx) (ha : l.a ≠ 0#32) (hi : i < l.c.toNat)
    (h : LeastIndex l.a.toNat l.b.toNat i) :
    invFinish rd l = ⟨.ok, true, [(rd, resultWord ((i * l.b.toNat + 1) / l.a.toNat))]⟩ := by
  rw [invFinish, h.invFn_eq (BitVec.toNat_ne_iff_ne.2 ha), if_pos hi]

/-- The quotient of the least index is written whole, and the division is exact (R8, R192). -/
theorem LeastIndex.resultWord_mul {a b : Word} {i : Nat} (h : LeastIndex a.toNat b.toNat i) (ha : a ≠ 0#32) :
    (resultWord ((i * b.toNat + 1) / a.toNat)).toNat * a.toNat = i * b.toNat + 1 := by
  have hb := b.isLt
  rw [resultWord_toNat ((h.quotient_le (BitVec.toNat_ne_iff_ne.2 ha)).trans_lt (by omega)), Nat.div_mul_cancel h.dvd]

/-! ## The statements -/

/-- Settles O52, from the outcome of INV in each of its three cases. -/
theorem invWritesTheBoundedSearchResult : Obligations.InvWritesTheBoundedSearchResult := by
  intro rd rs1 rs2 rs3 s
  obtain ⟨hdest, _, _⟩ := commandFinish_writesAsTableOf (.inv rd rs1 rs2 rs3) s.latch
  refine ⟨_, exec_eq_finish _ s, fun ha => ?divZero, fun ha hno => ?noInverse, fun i hi ha hdvd hleast => ?found,
    finish_frame _ s [rd] hdest⟩
  case divZero =>
    rw [commandFinish, invFinish_of_zero rd ha]
    exact ⟨finish_reg_one .., finish_completesWith .., rfl⟩
  case noInverse =>
    rw [commandFinish, invFinish_of_no_index rd ha hno]
    exact ⟨finish_reg_one .., finish_completesWith .., rfl⟩
  case found =>
    have h : LeastIndex s.latch.a.toNat s.latch.b.toNat i := ⟨hdvd, hleast⟩
    rw [commandFinish, invFinish_of_leastIndex rd ha hi h, finish_reg_one]
    exact ⟨h.resultWord_mul ha, finish_completesWith .., rfl⟩

/-- Settles O53, case by case of the datapath; the bounds below 2^32 are not needed. -/
theorem euclideanInverseEqualsTheSearch : Obligations.EuclideanInverseEqualsTheSearch := by
  intro e z n _ _ _
  have hgcd : Nat.gcd (z % e) e = Nat.gcd e z := (Nat.gcd_rec e z).symm
  rw [invByEuclid]
  by_cases he : e = 0
  · rw [if_pos he, he, invFn_zero]
  by_cases hone : e = 1
  · rw [if_neg he, if_pos hone, hone, invFn_one_left]
  by_cases hcoprime : Nat.Coprime e z
  · rw [if_neg he, if_neg hone, if_neg (not_not.2 (hgcd.trans hcoprime)), invFn_of_coprime he hcoprime]
  · rw [if_neg he, if_neg hone, if_pos (hgcd.trans_ne hcoprime), invFn_of_not_coprime he hcoprime]

/-- Settles O54: every row is the least index of the search against the bound. -/
theorem invCornerCases : Obligations.InvCornerCases := by
  refine ⟨invFn_zero, fun z n hn => ?_, fun z => ?_, fun e n he => ?_, fun e n he hn => ?_, fun e n he hn => ?_,
    fun e z n he hgcd => invFn_of_not_coprime he hgcd.ne' n, fun e z n he hn hz hcoprime => ?inverse,
    fun e z n hn hcoprime => ?truncated⟩
  · rw [invFn_one_left, if_pos hn]
  · rw [invFn_one_left, if_neg (by omega)]
  · exact invFn_of_not_coprime (by omega) (by rw [Nat.coprime_zero_right]; omega) n
  · rw [invFn_one_right (by omega), if_pos hn]
  · rw [invFn_one_right (by omega), if_neg (by omega)]
  case inverse =>
    have he0 : e ≠ 0 := by omega
    have hlt := euclidIndex_lt he0 z
    exact ⟨_, (invFn_of_coprime he0 hcoprime n).trans (if_pos (hlt.trans_le hn)),
      inverse_below_modulus_unique hz hlt (Nat.div_mul_cancel (dvd_euclidIndex_mul_add_one he0 hcoprime))⟩
  case truncated =>
    have he0 : e ≠ 0 := by omega
    obtain ⟨hdvd, hleast⟩ := leastIndex_euclidIndex he0 hcoprime
    exact ⟨_, euclidIndex_lt he0 z, hdvd, hleast, fun hi => (invFn_of_coprime he0 hcoprime n).trans (if_pos hi),
      fun hi => (invFn_of_coprime he0 hcoprime n).trans (if_neg (not_lt.2 hi))⟩

end Sys2Proof.Machine
end

section
/-! PROOFS. FACTOR (`45_factor.md`): its two scans find the largest odd prime divisor up to the square root, and its
completion writes the three outputs or three zeros. -/

namespace Sys2Proof.Machine

/-! ## The two scans, in terms of primes -/

/-- Scan 1 from 2 or above succeeds, with the largest prime not above its start (R202). -/
theorem scanPrime_of_two_le {s : Nat} (hs : 2 ≤ s) :
    ∃ c, scanPrime s = some c ∧ c.Prime ∧ c ≤ s ∧ ∀ r, r.Prime → r ≤ s → r ≤ c := by
  cases h : scanPrime s with
  | none => exact absurd Nat.prime_two ((isPrimeFn_eq_false_iff 2).1 (scanPrime_eq_none h 2 le_rfl hs))
  | some c =>
    obtain ⟨hc, _, hle, hlast⟩ := scanPrime_eq_some h
    exact ⟨c, rfl, (isPrimeFn_iff_prime c).1 hc, hle, fun r hr hrs => not_lt.1 fun hlt =>
      (isPrimeFn_eq_false_iff r).1 (hlast r hlt hrs) hr⟩

/-- What scan 2 tests at each k (R203). -/
theorem isPrimeFn_and_mod_eq_zero_iff (n k : Nat) : (isPrimeFn k = true ∧ n % k = 0) ↔ (k.Prime ∧ k ∣ n) := by
  rw [isPrimeFn_iff_prime, Nat.dvd_iff_mod_eq_zero]

/-- Scan 2 fails where no number of its start's parity up to the start is a prime divisor (R203). -/
theorem scanDivisor_of_no_prime_divisor {n k : Nat}
    (h : ∀ r, r.Prime → r ∣ n → r % 2 = k % 2 → k < r) : scanDivisor n k = none := by
  cases hscan : scanDivisor n k with
  | none => rfl
  | some r =>
    obtain ⟨hr, hmod, _, hle, hparity, _⟩ := scanDivisor_eq_some hscan
    obtain ⟨hprime, hdvd⟩ := (isPrimeFn_and_mod_eq_zero_iff n r).1 ⟨hr, hmod⟩
    exact absurd (h r hprime hdvd hparity) (not_lt.2 hle)

/-- Scan 2 accepts a prime divisor of its start's parity that no prime divisor up to the start exceeds (R203). -/
theorem scanDivisor_of_largest_prime_divisor {n k p : Nat} (hp : p.Prime) (hdvd : p ∣ n) (hk : p ≤ k)
    (hparity : p % 2 = k % 2) (hlast : ∀ r, r.Prime → r ∣ n → r ≤ k → r ≤ p) : scanDivisor n k = some p := by
  have htest := (isPrimeFn_and_mod_eq_zero_iff n p).2 ⟨hp, hdvd⟩
  cases hscan : scanDivisor n k with
  | none => exact absurd htest (scanDivisor_eq_none hscan p hp.two_le hk hparity)
  | some r =>
    obtain ⟨hr, hmod, _, hle, _, hbefore⟩ := scanDivisor_eq_some hscan
    obtain ⟨hprime, hrdvd⟩ := (isPrimeFn_and_mod_eq_zero_iff n r).1 ⟨hr, hmod⟩
    have hpr : p ≤ r := not_lt.1 fun hlt => hbefore p hlt hk hparity htest
    rw [le_antisymm (hlast r hprime hrdvd hle) hpr]

/-! ## FactorFn by the square root (R206) -/

theorem factorFn_of_candidate {n c : Nat} (h : scanPrime n.sqrt = some c) :
    factorFn n = (scanDivisor n c).map (factorOutputs n) := by
  rw [factorFn, isqrt_eq_sqrt, h]

theorem factorFn_of_sqrt_le_one {n : Nat} (hs : n.sqrt ≤ 1) : factorFn n = none := by
  have hscan : scanPrime n.sqrt = none := by
    obtain h | h := Nat.le_one_iff_eq_zero_or_eq_one.1 hs <;> rw [h, scanPrime]
  rw [factorFn, isqrt_eq_sqrt, hscan]

/-- From the square root 2 the candidate is 2, and scan 2 tries it alone. -/
theorem factorFn_of_sqrt_two {n : Nat} (hs : n.sqrt = 2) :
    factorFn n = if n % 2 = 0 then some (factorOutputs n 2) else none := by
  have htwo : isPrimeFn 2 = true := (isPrimeFn_iff_prime 2).2 Nat.prime_two
  have hscan : scanPrime n.sqrt = some 2 := by rw [hs, scanPrime, if_pos htwo]
  rw [factorFn_of_candidate hscan]
  split_ifs with h
  · rw [scanDivisor, if_pos ⟨htwo, h⟩, Option.map_some]
  · rw [scanDivisor, if_neg fun hboth => h hboth.2, scanDivisor, Option.map_none]

/-- From a square root of 3 or above the candidate is odd, because it is no less than the prime 3. -/
theorem exists_odd_candidate {s : Nat} (hs : 3 ≤ s) :
    ∃ c, scanPrime s = some c ∧ c % 2 = 1 ∧ c ≤ s ∧ ∀ r, r.Prime → r ≤ s → r ≤ c := by
  obtain ⟨c, hscan, hprime, hle, hlast⟩ := scanPrime_of_two_le (Nat.le_of_succ_le hs)
  have hthree : 3 ≤ c := hlast 3 Nat.prime_three hs
  exact ⟨c, hscan, hprime.mod_two_eq_one_iff_ne_two.2 (by omega), hle, hlast⟩

theorem factorFn_of_largest_prime_divisor {n p : Nat} (hs : 3 ≤ n.sqrt) (hp : p.Prime) (hodd : p % 2 = 1)
    (hdvd : p ∣ n) (hle : p ≤ n.sqrt) (hlast : ∀ r, r.Prime → r ∣ n → r ≤ n.sqrt → r ≤ p) :
    factorFn n = some (factorOutputs n p) := by
  obtain ⟨c, hscan, hcodd, hcs, hmax⟩ := exists_odd_candidate hs
  have hfound : scanDivisor n c = some p :=
    scanDivisor_of_largest_prime_divisor hp hdvd (hmax p hp hle) (hodd.trans hcodd.symm)
      fun r hr hrdvd hrc => hlast r hr hrdvd (hrc.trans hcs)
  rw [factorFn_of_candidate hscan, hfound, Option.map_some]

theorem factorFn_of_no_odd_prime_divisor {n : Nat} (hs : 3 ≤ n.sqrt)
    (h : ∀ p, p.Prime → p % 2 = 1 → p ∣ n → n.sqrt < p) : factorFn n = none := by
  obtain ⟨c, hscan, hcodd, hcs, _⟩ := exists_odd_candidate hs
  have hfailed : scanDivisor n c = none := scanDivisor_of_no_prime_divisor fun r hr hdvd hparity =>
    hcs.trans_lt (h r hr (hparity.trans hcodd) hdvd)
  rw [factorFn_of_candidate hscan, hfailed, Option.map_none]

/-- A prime divisor of p * q up to its square root is at most the smaller of the primes p and q. -/
theorem prime_dvd_mul_le_of_le_sqrt {p q r : Nat} (hp : p.Prime) (hq : q.Prime) (hr : r.Prime) (hdvd : r ∣ p * q)
    (hle : r ≤ (p * q).sqrt) : r ≤ p := by
  obtain h | h := (Nat.Prime.dvd_mul hr).1 hdvd
  · exact Nat.le_of_dvd hp.pos h
  · obtain rfl := (Nat.prime_dvd_prime_iff_eq hr hq).1 h
    exact Nat.le_of_mul_le_mul_right (Nat.le_sqrt.1 hle) hr.pos

/-- The key-recovery case (R206). -/
theorem factorFn_mul_of_odd_primes {p q : Nat} (hp : p.Prime) (hq : q.Prime) (hodd : p % 2 = 1) (hpq : p ≤ q) :
    factorFn (p * q) = some ⟨p, q, (p - 1) * (q - 1)⟩ := by
  have hle : p ≤ (p * q).sqrt := Nat.le_sqrt.2 (Nat.mul_le_mul_left p hpq)
  have hthree : 3 ≤ p := by
    have htwo := hp.two_le
    omega
  rw [factorFn_of_largest_prime_divisor (hthree.trans hle) hp hodd (Nat.dvd_mul_right p q) hle
    fun _ hr hdvd hrle => prime_dvd_mul_le_of_le_sqrt hp hq hr hdvd hrle, factorOutputs,
    Nat.mul_div_cancel_left q hp.pos]

/-! ## What FactorFn finds -/

/-- The outputs of R204: a prime up to the square root, its cofactor and the product of both less 1. -/
theorem factorFn_eq_some {n : Nat} {f : Factors} (h : factorFn n = some f) :
    f.p.Prime ∧ f.p * f.p ≤ n ∧ f.p * f.q = n ∧ f.t = (f.p - 1) * (f.q - 1) := by
  unfold factorFn at h
  split at h
  · cases h
  · rename_i c hscan
    obtain ⟨p, hfound, rfl⟩ := Option.map_eq_some_iff.1 h
    obtain ⟨_, _, hcs, _⟩ := scanPrime_eq_some hscan
    obtain ⟨hprime, hmod, _, hpc, _⟩ := scanDivisor_eq_some hfound
    rw [isqrt_eq_sqrt] at hcs
    exact ⟨(isPrimeFn_iff_prime p).1 hprime, Nat.le_sqrt.1 (hpc.trans hcs),
      Nat.mul_div_cancel' (Nat.dvd_of_mod_eq_zero hmod), rfl⟩

/-- No output exceeds the number factored, so each fits a register as that operand does (R8, R205). -/
theorem factorFn_outputs_le {n : Nat} {f : Factors} (h : factorFn n = some f) : f.p ≤ n ∧ f.q ≤ n ∧ f.t ≤ n := by
  obtain ⟨hprime, hsquare, hmul, ht⟩ := factorFn_eq_some h
  have hq : f.q ≤ n := hmul ▸ Nat.le_mul_of_pos_left f.q hprime.pos
  have htn : f.t ≤ n := calc
    f.t = (f.p - 1) * (f.q - 1) := ht
    _ ≤ f.p * f.q := Nat.mul_le_mul (Nat.sub_le ..) (Nat.sub_le ..)
    _ = n := hmul
  exact ⟨(Nat.le_mul_self f.p).trans hsquare, hq, htn⟩

/-! ## What FACTOR finishes with -/

theorem factorFinish_of_some {rd : RegIx} {l : Latch} {f : Factors} (hrd : rd.val ≤ 5)
    (h : factorFn l.a.toNat = some f) : factorFinish rd l =
      ⟨.ok, true, [(rd, resultWord f.p), (rd + 1, resultWord f.q), (rd + 2, resultWord f.t)]⟩ := by
  simp [factorFinish, factorDestinationOk, hrd, h]

theorem factorFinish_of_none {rd : RegIx} {l : Latch} (hrd : rd.val ≤ 5) (h : factorFn l.a.toNat = none) :
    factorFinish rd l = ⟨.factorFail, false, [(rd, 0#32), (rd + 1, 0#32), (rd + 2, 0#32)]⟩ := by
  simp [factorFinish, factorDestinationOk, hrd, h]

/-- A word with RD past D5 is no FACTOR command (R107; the model's choice of log entry 14). -/
theorem factorFinish_past_d5 {rd : RegIx} (l : Latch) (hrd : 5 < rd.val) : factorFinish rd l = illegalFinish :=
  if_neg (by simpa [factorDestinationOk] using hrd)

/-- The three registers a completion with three consecutive destinations writes. -/
theorem finish_reg_three (code : CompletionCode) (flag : Bool) (k : RegIx) (x y z : Word) (s : State) :
    (finish ⟨code, flag, [(k, x), (k + 1, y), (k + 2, z)]⟩ s).reg k = x ∧
    (finish ⟨code, flag, [(k, x), (k + 1, y), (k + 2, z)]⟩ s).reg (k + 1) = y ∧
    (finish ⟨code, flag, [(k, x), (k + 1, y), (k + 2, z)]⟩ s).reg (k + 2) = z := by
  have hdistinct : ∀ j : RegIx, [j, j + 1, j + 2].Nodup := by decide
  have hmem := fun (j : RegIx) (v : Word) => applyWrites_mem j v [(k, x), (k + 1, y), (k + 2, z)] s.regs (hdistinct k)
  exact ⟨hmem _ _ (by simp), hmem _ _ (by simp), hmem _ _ (by simp)⟩

/-! ## The statements -/

/-- Settles O55, by the square root that s must be; the bounds below 2^32 and the oddness of q are not needed. -/
theorem factorFindsTheLargestOddPrimeDivisor : Obligations.FactorFindsTheLargestOddPrimeDivisor := by
  refine ⟨fun n s _ hlow hhigh => ?_, fun p q hp hq hodd _ hpq _ => factorFn_mul_of_odd_primes hp hq hodd hpq⟩
  obtain rfl : s = n.sqrt := Nat.eq_sqrt.2 ⟨hlow, hhigh⟩
  refine ⟨factorFn_of_sqrt_le_one, fun hs heven => ?_, fun hs hodd => ?_,
    fun _ => factorFn_of_largest_prime_divisor, factorFn_of_no_odd_prime_divisor⟩
  · simp [factorFn_of_sqrt_two hs, heven, factorOutputs]
  · rw [factorFn_of_sqrt_two hs, if_neg (by omega)]

/-- Settles O56, from the outcome of FACTOR with a factor, without one and with RD past D5. -/
theorem factorWritesThreeRegisters : Obligations.FactorWritesThreeRegisters := by
  intro rd rs1 s
  obtain ⟨hdest, _, _⟩ := commandFinish_writesAsTableOf (.factor rd rs1) s.latch
  refine ⟨fun hrd => ⟨_, exec_eq_finish _ s, fun f hf => ?found, fun hnone => ?failed,
    finish_frame _ s [rd, rd + 1, rd + 2] hdest⟩, fun hrd => ⟨_, exec_eq_finish _ s, ?pastD5⟩⟩
  case found =>
    have hfits {x : Nat} (hx : x ≤ s.latch.a.toNat) : (resultWord x).toNat = x :=
      resultWord_toNat (hx.trans_lt s.latch.a.isLt)
    obtain ⟨hp, hq, ht⟩ := factorFn_outputs_le hf
    obtain ⟨hregP, hregQ, hregT⟩ :=
      finish_reg_three .ok true rd (resultWord f.p) (resultWord f.q) (resultWord f.t) s
    rw [commandFinish, factorFinish_of_some hrd hf, hregP, hregQ, hregT]
    exact ⟨finish_completesWith .., hfits hp, hfits hq, hfits ht, factorFn_eq_some hf⟩
  case failed =>
    rw [commandFinish, factorFinish_of_none hrd hnone]
    exact ⟨finish_completesWith .., finish_reg_three ..⟩
  case pastD5 =>
    rw [commandFinish, factorFinish_past_d5 s.latch hrd]
    exact ⟨finish_completesWith .., finish_frame illegalFinish s [] (by simp [illegalFinish])⟩

end Sys2Proof.Machine
end

section
/-! PROOFS. CLR (`46_clear.md`): its completion writes 0 to every data register and leaves the rest of the block as it
was. -/

namespace Sys2Proof.Machine

/-! ## What CLR finishes with -/

/-- CLR's writes name D0 to D7 once each, so each register takes the 0 written to it (R144, R215). -/
theorem finish_clrFinish_reg (s : State) (k : RegIx) : (finish clrFinish s).reg k = 0#32 := by
  have hdistinct : (clrFinish.writes.map Prod.fst).Nodup := by decide
  have hnamed : ∀ j : RegIx, (j, 0#32) ∈ clrFinish.writes := by decide
  exact applyWrites_mem k 0#32 clrFinish.writes s.regs hdistinct (hnamed k)

/-! ## The statement -/

/-- Settles O57: D0 to D7 by the writes of CLR's outcome, everything else by the frame of `finish`. -/
theorem clrClearsEveryDataRegister : Obligations.ClrClearsEveryDataRegister := by
  intro s
  obtain ⟨hdest, _, _⟩ := commandFinish_writesAsTableOf .clr s.latch
  have hframe : CompletionFrame (destinations .clr) s (finish clrFinish s) := finish_frame clrFinish s _ hdest
  exact ⟨_, exec_eq_finish .clr s, finish_clrFinish_reg s, finish_completesWith clrFinish s,
    finish_ovr .., finish_ie .., rfl, hframe⟩

end Sys2Proof.Machine
end

section
/-! PROOFS. Completion codes, bus errors and the interrupt's pending bit (`60_exceptions.md`): the outcomes ILLEGAL and
ABORTED, the fault of an unsupported transaction, and the steps that set or clear DONE. -/

namespace Sys2Proof.Machine

/-! ## The outcomes that write no data register -/

/-- A word written to CMD while IDLE, with its completion next: the run is the word's own outcome, since the start
clears any abort request (R141, R150). -/
theorem run_start_completion_eq_completeNormally {s : State} {w : Word} {take : Bool} {rest : List Event}
    (hp : s.phase = .idle) (ha : s.agenda = wrCmd w :: .completion take :: rest) :
    run 2 s = completeNormally { start w s with agenda := rest, response := some .okayWrite } := by
  have hcomplete := step_completion_of_no_abortReq
    (s := { start w s with agenda := .completion take :: rest, response := some .okayWrite }) rfl rfl rfl
  rw [completeNormally_eq_finish] at hcomplete ⊢
  exact (run_succ (step_wrCmd_idle hp ha)).trans (run_succ hcomplete)

theorem completeNormally_of_illegal {s : State} (h : legal s.latch.word = false) :
    completeNormally s = .next (finish illegalFinish s) :=
  completeNormally_of_none (latchedInstr_of_illegal h)

/-- A completion with an illegal word latched ends ILLEGAL, or ABORTED where an abort was requested (R223, R230). -/
theorem completion_of_illegal {s : State} (take : Bool) (h : legal s.latch.word = false) :
    completion take s = .next (finish illegalFinish s) ∨
    (s.abortReq = true ∧ completion take s = .next (finish abortedFinish s)) := by
  cases htaken : s.abortReq && take with
  | false => exact .inl ((completion_of_not_taken htaken).trans (completeNormally_of_illegal h))
  | true =>
    obtain ⟨hreq, rfl⟩ : s.abortReq = true ∧ take = true := by simpa using htaken
    exact .inr ⟨hreq, completion_of_taken hreq⟩

/-! ## Unsupported transactions -/

theorem supported_iff (t : Transaction) (o : Nat) :
    t.supported o = true ↔ t.bytes = 4 ∧ t.beats = 1 ∧ o % 4 = 0 := by
  simp [Transaction.supported, and_assoc]

/-- A transaction of the window the block does not support is a fault of the host's step, in every state (R72, R222). -/
theorem hostStep_of_unsupported {t : Transaction} {o : Nat} (s : State) (ho : windowOffset t.addr = some o)
    (hs : t.supported o = false) : hostStep t s = .fault .busError := by
  simp only [hostStep, ho, access_unsupported s hs]

/-! ## What a host access does to DONE -/

/-- A host step keeps DONE, or it clears DONE by a write of 1 to STATUS bit 1 or by a start (R38, R141, R236). -/
theorem hostStep_keepsDone_or_clears {e : Transaction} {s t : State} (h : hostStep e s = .next t) :
    t.done = s.done ∨
    (t.done = false ∧ ∃ v, e.access = .write v ∧
      ((writeTargetOf e = some .status ∧ v[1] = true) ∨ (writeTargetOf e = some .cmd ∧ s.phase = .idle))) := by
  obtain ⟨_, _, _, rfl⟩ | ⟨r, v, hr, hv, rfl⟩ := hostStep_readOrWrite h
  · exact .inl rfl
  · rcases writeTarget_cases v s r with
      ⟨_, _, _, hw⟩ | ⟨rfl, hb, hw⟩ | ⟨_, _, hw⟩ | ⟨rfl, hw⟩ | ⟨_, hw⟩ | ⟨_, hw⟩
    · exact .inl (by simp [hw])
    · exact .inr ⟨by simp [hw], v, hv, .inr ⟨hr, (not_busy_iff s).1 hb⟩⟩
    · exact .inl (by simp [hw])
    · cases hbit : v[1] with
      | false => exact .inl (by simp [hw, hbit])
      | true => exact .inr ⟨by simp [hw, hbit], v, hv, .inl ⟨hr, hbit⟩⟩
    all_goals exact .inl (by simp [hw])

/-! ## The statements -/

/-- Settles O24: the start latches the word, and the completion of an illegal latched word writes nothing under either
abort choice. -/
theorem illegalWordCompletesWithoutWrites : Obligations.IllegalWordCompletesWithoutWrites := by
  constructor
  · intro s w take rest hp hill ha
    exact ⟨_, (run_start_completion_eq_completeNormally hp ha).trans (completeNormally_of_illegal hill),
      finish_completesWith illegalFinish _, rfl, rfl, rfl, rfl, rfl⟩
  · intro s take hill
    obtain hc | ⟨hreq, hc⟩ := completion_of_illegal take hill
    · exact ⟨_, hc, rfl, rfl, .inl rfl⟩
    · exact ⟨_, hc, rfl, rfl, .inr ⟨rfl, hreq⟩⟩

/-- Settles O35, by the kind of step: an IDLE engine keeps DONE, a completion sets it, a host access keeps or clears it,
and a reset clears it. -/
theorem doneIsSetOnlyByCompletion : Obligations.DoneIsSetOnlyByCompletion := by
  intro s t h
  obtain ⟨_, rfl⟩ | ⟨hp, take, hc⟩ | ⟨e, rest, ha, hh⟩ | ⟨rest, ha, rfl⟩ := step_cases h
  · constructor <;> intro hs ht <;> simp [hs] at ht
  · obtain ⟨hidle, hdone, _, _⟩ := completion_status hc
    exact ⟨fun _ _ => ⟨hp, hidle, take, hc⟩, fun _ ht => by simp [hdone] at ht⟩
  · obtain hkeep | ⟨hclear, v, hv, hr⟩ := hostStep_keepsDone_or_clears hh
    · constructor <;> intro hs ht <;> simp [hkeep, hs] at ht
    · exact ⟨fun _ ht => by simp [hclear] at ht, fun _ _ => .inr ⟨e, rest, v, ha, hv, hr⟩⟩
  · exact ⟨nofun, fun _ _ => .inl (resetsNext_of_cons ha)⟩

/-- Settles O18: the block answers ERROR in every state, which the host's step takes as its fault. -/
theorem unsupportedAccessFaultsAndChangesNothing : Obligations.UnsupportedAccessFaultsAndChangesNothing := by
  intro s t o rest ha haddr h64 hnot
  have hs : t.supported o = false := by rwa [← supported_iff, Bool.not_eq_true] at hnot
  have ho : windowOffset t.addr = some o := windowOffset_eq_some.2 ⟨haddr, h64⟩
  exact ⟨(step_cons ha).trans (hostStep_of_unsupported _ ho hs), fun u => access_unsupported u hs⟩

/-- Settles O26: the abort is taken, and the outcome ABORTED has no writes, so its frame leaves out no register. -/
theorem abortedKeepsEveryRegister : Obligations.AbortedKeepsEveryRegister := by
  intro s rest hp hreq ha
  have hstep : step s = .next (finish abortedFinish s.popAgenda) :=
    (step_completion_of_busy hp ha).trans (completion_of_taken hreq)
  have hframe : CompletionFrame [] s.popAgenda (finish abortedFinish s.popAgenda) :=
    finish_frame abortedFinish s.popAgenda [] nofun
  exact ⟨_, hstep, finish_completesWith abortedFinish _, rfl, rfl, hframe⟩

end Sys2Proof.Machine
end

section
/-! PROOFS. What all commands have in common (`40_command_cycle.md` R143 to R150, `00_scope.md` R8): a completion
finishes with what the latch and the abort decision give, changes no more than its destinations and STATUS, and its
results fit a register. -/

namespace Sys2Proof.Machine

/-! ## A completion as one `finish` -/

/-- What a completion finishes with, from its abort choice, the abort request and the latch alone (R146, R150). -/
def completionFinish (take abortReq : Bool) (l : Latch) : Finish :=
  if abortReq && take then abortedFinish else latchedFinish l

theorem completion_eq_finish (take : Bool) (s : State) :
    completion take s = .next (finish (completionFinish take s.abortReq s.latch) s) := by
  unfold completion completionFinish
  split
  · rfl
  · exact completeNormally_eq_finish s

/-- The writes of a completion leave a register alone, or give it one value, whatever the registers held (R144). -/
theorem applyWrites_keeps_or_gives (k : RegIx) (ws : List (RegIx × Word)) :
    (∀ regs, (applyWrites regs ws)[k] = regs[k]) ∨ ∃ v, ∀ regs, (applyWrites regs ws)[k] = v := by
  induction ws with
  | nil => exact .inl fun _ => rfl
  | cons w ws ih =>
    obtain ⟨j, v⟩ := w
    obtain hkeeps | ⟨u, hgives⟩ := ih
    · by_cases hj : j = k
      · exact .inr ⟨v, fun regs => (hkeeps _).trans (by simp [hj])⟩
      · have hval : j.val ≠ k.val := Fin.val_ne_of_ne hj
        exact .inl fun regs => (hkeeps _).trans (by simp [hval])
    · exact .inr ⟨u, fun regs => hgives _⟩

/-- One outcome on two states leaves each register alone in both, or gives it the same value in both (R146). -/
theorem finish_reg_keeps_or_agrees (f : Finish) (s s' : State) (k : RegIx) :
    ((finish f s).reg k = s.reg k ∧ (finish f s').reg k = s'.reg k) ∨ (finish f s).reg k = (finish f s').reg k := by
  obtain hkeeps | ⟨_, hgives⟩ := applyWrites_keeps_or_gives k f.writes
  · exact .inl ⟨hkeeps s.regs, hkeeps s'.regs⟩
  · exact .inr ((hgives s.regs).trans (hgives s'.regs).symm)

/-! ## CODE and FLAG of an outcome -/

/-- A code other than OK comes with FLAG 0 (R221). -/
def Finish.FlagOnlyWithOk (f : Finish) : Prop := f.code ≠ .ok → f.flag = false

theorem commandFinish_flagOnlyWithOk (i : Instr) (l : Latch) : (commandFinish i l).FlagOnlyWithOk := by
  cases i with
  | isprime rd rs1 => exact absurd rfl
  | gcd rd rs1 rs2 => exact absurd rfl
  | powmod rd rs1 rs2 rs3 =>
    simp only [commandFinish, powmodFinish]
    split_ifs with hm
    · exact fun _ => by simp [powmodFlag, hm]
    · exact absurd rfl
    · exact absurd rfl
  | inv rd rs1 rs2 rs3 =>
    simp only [commandFinish, invFinish]
    split
    · exact fun _ => rfl
    · exact fun _ => rfl
    · exact absurd rfl
  | factor rd rs1 =>
    simp only [commandFinish, factorFinish]
    split_ifs
    · split
      · exact fun _ => rfl
      · exact absurd rfl
    · exact fun _ => rfl
  | clr => exact absurd rfl

theorem latchedFinish_flagOnlyWithOk (l : Latch) : (latchedFinish l).FlagOnlyWithOk := by
  unfold latchedFinish
  split
  · exact commandFinish_flagOnlyWithOk _ l
  · exact fun _ => rfl

theorem completionFinish_flagOnlyWithOk (take abortReq : Bool) (l : Latch) :
    (completionFinish take abortReq l).FlagOnlyWithOk := by
  unfold completionFinish
  split
  · exact fun _ => rfl
  · exact latchedFinish_flagOnlyWithOk l

/-- A latch's own outcome is never ABORTED (R150 (a)). -/
theorem latchedFinish_code_ne_aborted (l : Latch) : (latchedFinish l).code ≠ .aborted := by
  unfold latchedFinish
  split
  · rename_i i _
    obtain ⟨_, haborted, _⟩ := commandFinish_writesAsTableOf i l
    exact haborted
  · nofun

/-! ## INV's result -/

/-- What INV finds is at most z, but for the 1 that z = 0 gives (R192). -/
theorem invFn_found_le {e z n d : Nat} (h : invFn e z n = .found d) : d ≤ max z 1 := by
  by_cases he : e = 0
  · simp [he, invFn_zero] at h
  by_cases hcoprime : Nat.Coprime e z
  · rw [invFn_of_coprime he hcoprime] at h
    split at h
    · cases h
      exact (leastIndex_euclidIndex he hcoprime).quotient_le he
    · cases h
  · cases (invFn_of_not_coprime he hcoprime n).symm.trans h

/-! ## The statements -/

/-- Settles O28: both completions finish with the one outcome the latch and the abort decision give. -/
theorem outcomeDependsOnlyOnTheLatch : Obligations.OutcomeDependsOnlyOnTheLatch := by
  intro s s' t t' take hlatch hreq h h'
  rw [completion_eq_finish] at h h'
  cases h
  cases h'
  rw [hlatch, hreq]
  exact ⟨rfl, rfl, finish_reg_keeps_or_agrees _ s s'⟩

/-- Settles O42: a command's outcome writes to its destinations alone, and `finish` has that frame. -/
theorem commandsChangeOnlyTheirDestinations : Obligations.CommandsChangeOnlyTheirDestinations := by
  intro i s t h
  rw [exec_eq_finish] at h
  cases h
  obtain ⟨hdest, _, _⟩ := commandFinish_writesAsTableOf i s.latch
  exact finish_frame _ s _ hdest

/-- Settles O43: no result exceeds an operand, but for INV's 1 where z = 0. -/
theorem everyResultFitsARegister : Obligations.EveryResultFitsARegister := by
  intro a b c ha hb hc
  refine ⟨(gcdFn_le_left a b).trans_lt ha, fun hm => (powFn_le_modulus a b hm).trans_lt hc, fun d hd => ?_,
    fun f hf => ?_⟩
  · exact (invFn_found_le hd).trans_lt (max_lt hb (by norm_num))
  · obtain ⟨hp, hq, ht⟩ := factorFn_outputs_le hf
    exact ⟨hp.trans_lt ha, hq.trans_lt ha, ht.trans_lt ha⟩

/-- Settles O41: every command ends by `finish`. -/
theorem everyCommandEndsInANextState : Obligations.EveryCommandEndsInANextState :=
  fun i s => ⟨_, exec_eq_finish i s, rfl, rfl⟩

end Sys2Proof.Machine
end

section
/-! PROOFS. The invariant of the block's state (`10_state.md` section 4, `60_exceptions.md` R221): the reset state has
it, and every kind of step keeps it. -/

namespace Sys2Proof.Machine

theorem reset_inv : State.reset.Inv :=
  ⟨⟨rfl, rfl⟩, nofun, absurd rfl⟩

theorem start_inv (w : Word) (s : State) : (start w s).Inv :=
  ⟨latchOperands_consistent w s, fun _ => ⟨rfl, rfl, rfl⟩, absurd rfl⟩

/-- A completion leaves the latch and ends IDLE, with FLAG 0 where its code is not OK (R144, R221). -/
theorem completion_inv {take : Bool} {s t : State} (hs : s.Inv) (h : completion take s = .next t) : t.Inv := by
  rw [completion_eq_finish] at h
  cases h
  obtain ⟨hlatch, _, _⟩ := hs
  exact ⟨hlatch, nofun, completionFinish_flagOnlyWithOk take s.abortReq s.latch⟩

/-- A write of the window is a start, or it keeps the latch, the phase, FLAG and CODE and does not set DONE. -/
theorem writeTarget_inv (v : Word) {s : State} (r : Target) (hs : s.Inv) : (writeTarget v s r).Inv := by
  obtain ⟨_, _, _, hw⟩ | ⟨_, _, hw⟩ | ⟨_, _, hw⟩ | ⟨_, hw⟩ | ⟨_, hw⟩ | ⟨_, hw⟩ := writeTarget_cases v s r
  case inr.inl => exact hw ▸ start_inv v s
  case inr.inr.inr.inl =>
    obtain ⟨hlatch, hbusy, hcode⟩ := hs
    rw [hw]
    refine ⟨hlatch, fun hp => ?_, hcode⟩
    obtain ⟨hdone, hflag, hok⟩ := hbusy hp
    exact ⟨by simp [hdone], hflag, hok⟩
  all_goals
    rw [hw]
    exact hs

theorem hostStep_inv {e : Transaction} {s t : State} (hs : s.Inv) (h : hostStep e s = .next t) : t.Inv := by
  obtain ⟨_, _, _, rfl⟩ | ⟨r, v, _, _, rfl⟩ := hostStep_readOrWrite h
  · exact hs
  · exact writeTarget_inv v r hs

/-! ## The statements -/

/-- Settles O39, by the kind of step; taking the step off the agenda is not seen by the invariant. -/
theorem stepKeepsTheStateInvariant : Obligations.StepKeepsTheStateInvariant := by
  intro s t hs h
  have hpop : s.popAgenda.Inv := hs
  obtain ⟨_, rfl⟩ | ⟨_, _, hc⟩ | ⟨_, _, _, hh⟩ | ⟨_, _, rfl⟩ := step_cases h
  · exact hpop
  · exact completion_inv hpop hc
  · exact hostStep_inv hpop hh
  · exact reset_inv

/-- Settles O40. -/
theorem resetHasTheStateInvariant : Obligations.ResetHasTheStateInvariant :=
  reset_inv

end Sys2Proof.Machine
end

section
/-! PROOFS. Reset, hazards and the idle engine (`70_reset_and_hazards.md`, `40_command_cycle.md` R140, R141): what an
abort written while IDLE, a dropped write and a reset leave behind, and what a loaded command runs. -/

namespace Sys2Proof.Machine

/-! ## OVR along a run -/

/-- OVR once set is still set at the end of a run none of whose steps clears it (R40). -/
theorem run_keeps_ovr {k : Nat} {s t : State} (hrun : run k s = .next t)
    (hclear : Along (fun u => u.clearsOvrNext = false) k s) (hovr : s.ovr = true) : t.ovr = true := by
  induction k generalizing s with
  | zero =>
    cases hrun
    exact hovr
  | succ k ih =>
    obtain ⟨s', hstep, hrest⟩ := run_succ_cases hrun
    obtain ⟨hnot, halong⟩ := hclear
    refine ih hrest (halong s' hstep) ?_
    rw [ovrIsStickyAndSetByDroppedWrites s s' hstep, hovr, hnot]
    simp

/-! ## Reset and the idle engine -/

/-- After a reset every register of the window reads its reset value (R55, R260). -/
theorem readTarget_resetBlock (s : State) (r : Target) : readTarget (resetBlock s) r = readTarget State.reset r := by
  cases r <;> rfl

/-- A completion slot of an IDLE engine is passed over (R140, R242; log entry 1). -/
theorem completionSlot_of_idle {take : Bool} {s : State} (hp : s.phase = .idle) :
    completionSlot take s = .next s := by
  simp [completionSlot, hp]

theorem step_of_nil {s : State} (h : s.agenda = []) : step s = completionSlot s.finalAbort s := by
  simp [step, advance, h]

/-! ## A loaded command -/

theorem tail_completionFirst (agenda : List Event) : (completionFirst agenda).tail = agenda := by
  cases agenda <;> rfl

/-- The command of a load is BUSY with no abort requested, and its completion is the next step (log entry 12). -/
theorem loadCommand_completesNext (w : Word) (s : State) : (loadCommand w s).CompletesNext := by
  refine ⟨rfl, ?_⟩
  cases h : s.agenda with
  | nil => exact .inl ⟨by rw [loadCommand_agenda, h, completionFirst], rfl⟩
  | cons e rest => exact .inr ⟨false, e :: rest, by rw [loadCommand_agenda, h, completionFirst], rfl⟩

/-- The step after a load runs the command its word decodes to. -/
theorem step_loadCommand {w : Word} {i : Instr} (s : State) (h : decode w = .ok i) :
    step (loadCommand w s) = exec i (loadCommand w s).popAgenda := by
  have hlatched : latchedInstr (loadCommand w s).popAgenda.latch = some i :=
    (latchedInstr_latchOperands w s).trans (by rw [h]; rfl)
  rw [step_of_completesNext (loadCommand_completesNext w s), completeNormally_of_some hlatched]

/-- A number below 2^32 is its own table word (R100). -/
theorem tableWord_of_lt {w : Nat} (hw : w < 2 ^ 32) : tableWord 32 w = some (BitVec.ofNat 32 w) := by
  rw [tableWord, Nat.mod_eq_of_lt hw, if_pos hw]

theorem decode_of_decodeTableWord {w : Nat} {i : Instr} (hw : w < 2 ^ 32) (h : decodeTableWord 32 w = some i) :
    decode (BitVec.ofNat 32 w) = .ok i := by
  rw [decodeTableWord, tableWord_of_lt hw, Option.bind_some] at h
  cases hd : decode (BitVec.ofNat 32 w) with
  | error _ =>
    rw [hd] at h
    cases h
  | ok j =>
    rw [hd] at h
    cases h
    rfl

/-! ## The statements -/

/-- Settles O27: the start clears the abort request, so the completion is the command's own outcome under any choice. -/
theorem abortDoesNotCarryOver : Obligations.AbortDoesNotCarryOver := by
  intro s v w take rest hp ha
  have hctrl := step_wrCtrl ha
  have hstart := step_wrCmd_idle (w := w) (rest := .completion take :: rest)
    (s := { writeCtrl v { s with agenda := wrCmd w :: .completion take :: rest } with response := some .okayWrite })
    hp rfl
  refine ⟨_, _, (run_succ hctrl).trans (run_succ hstart), rfl, rfl, ?_, completeNormally_eq_finish _,
    latchedFinish_code_ne_aborted _⟩
  rw [← completeNormally_eq_finish]
  exact step_of_completesNext ⟨rfl, .inr ⟨take, rest, rfl, rfl⟩⟩

/-- Settles O34, by induction on the run: a step that drops a write sets OVR, and nothing after it clears it. -/
theorem clearOvrShowsNoWriteWasDropped : Obligations.ClearOvrShowsNoWriteWasDropped := by
  intro k
  induction k with
  | zero => exact fun _ _ _ _ _ => trivial
  | succ k ih =>
    intro s t hrun hclear hovr
    obtain ⟨s', hstep, hrest⟩ := run_succ_cases hrun
    obtain ⟨_, halong⟩ := hclear
    have hclear' := halong s' hstep
    refine along_succ hstep (Bool.eq_false_iff.2 fun hdrop => ?_) (ih s' t hrest hclear' hovr)
    have hset : s'.ovr = true := by rw [ovrIsStickyAndSetByDroppedWrites s s' hstep, hdrop, Bool.true_or]
    simp [run_keeps_ovr hrest hclear' hset] at hovr

/-- Settles O38: the step is the reset of the block, whatever it was doing. -/
theorem resetAbandonsTheCommand : Obligations.ResetAbandonsTheCommand :=
  fun _ _ h => ⟨_, step_cons h, readTarget_resetBlock _, rfl, rfl, rfl, rfl, rfl, rfl⟩

/-- Settles O59: both steps meet a completion slot while IDLE. -/
theorem idleEngineDoesNothingByItself : Obligations.IdleEngineDoesNothingByItself := by
  refine ⟨fun s take rest hp h => ?_, fun s hp h => (step_of_nil h).trans (completionSlot_of_idle hp)⟩
  rw [step_cons h, popAgenda_of_cons h]
  exact completionSlot_of_idle hp

/-- Settles O22: the load takes the number as its own word, and the completion it puts first leaves the agenda as it
was. -/
theorem loadedWordRunsNext : Obligations.LoadedWordRunsNext := by
  intro s w i hw hdecode
  have hload : s.withFetchWord 32 w = loadCommand (BitVec.ofNat 32 w) s := by
    rw [State.withFetchWord, tableWord_of_lt hw]
  rw [hload]
  exact ⟨_, step_loadCommand s (decode_of_decodeTableWord hw hdecode), rfl, rfl, tail_completionFirst _, rfl, rfl⟩

end Sys2Proof.Machine
end

section
/-! PROOFS. What the host sees through the window (`10_state.md` R34 to R47, `20_memory.md` R71, R76): the layout of
STATUS and CTRL, the value each offset reads, the write of a data register, and the addresses outside the window. -/

namespace Sys2Proof.Machine

/-! ## STATUS and CTRL -/

theorem append_ofBool_getElem_zero {n : Nat} (x : BitVec n) (b : Bool) : (x ++ BitVec.ofBool b)[0] = b := by
  rw [BitVec.getElem_append]
  simp

theorem append_ofBool_getElem_succ {n i : Nat} {x : BitVec n} {c : Bool} {hi : i < n} (b : Bool) (h : x[i] = c) :
    (x ++ BitVec.ofBool b)[i + 1] = c := by
  rw [BitVec.getElem_append]
  simpa using h

/-- STATUS[3:0] are BUSY, DONE, FLAG and OVR, the last bit appended being bit 0 (R36). -/
theorem statusWord_low_bits (s : State) : s.statusWord[0] = s.busy ∧ s.statusWord[1] = s.done ∧
    s.statusWord[2] = s.flag ∧ s.statusWord[3] = s.ovr := by
  have hlast {n : Nat} {x : BitVec n} {b : Bool} := append_ofBool_getElem_zero x b
  have hshift {n i : Nat} {x : BitVec n} {c : Bool} {hi : i < n} {b : Bool} (h : x[i] = c) :=
    append_ofBool_getElem_succ b h
  exact ⟨hlast, hshift hlast, hshift (hshift hlast), hshift (hshift (hshift hlast))⟩

/-- STATUS[7:4] is the number of the code (R36, R41). -/
theorem statusWord_code (s : State) : s.statusWord.extractLsb 7 4 = s.code.number := by
  rw [State.statusWord, BitVec.extractLsb]
  iterate 4 rw [BitVec.extractLsb'_append_eq_of_le (by decide)]
  exact BitVec.extractLsb'_append_eq_right

/-- Values 7 to 15 are never read (R229). -/
theorem CompletionCode.number_le_six (c : CompletionCode) : c.number.toNat ≤ 6 := by
  cases c <;> decide

/-- CTRL[0] is IE (R43). -/
theorem ctrlWord_ie (s : State) : s.ctrlWord[0] = s.ie :=
  append_ofBool_getElem_zero _ _

/-! ## Writes of Dk and addresses outside the window -/

/-- A write of Dk while IDLE is taken (R31). -/
theorem step_wrData_idle {s : State} {k : RegIx} {v : Word} {rest : List Event} (hp : s.phase = .idle)
    (h : s.agenda = wrData k v :: rest) :
    step s = .next { s with regs := s.regs.set k v, agenda := rest, response := some .okayWrite } := by
  rw [step_wrAt h (by omega) (by omega), popAgenda_of_cons h, target_data, writeTarget, writeData]
  simp [State.busy, hp]

theorem windowOffset_of_outside {addr : Nat} (h : addr < Config.base ∨ Config.base + 64 ≤ addr) :
    windowOffset addr = none :=
  if_neg fun ⟨hlow, hhigh⟩ => h.elim (not_lt.2 hlow) (not_le.2 hhigh)

/-- A transaction outside the window is refused in every state (R71; log entry 10). -/
theorem hostStep_of_outside {t : Transaction} (s : State) (h : windowOffset t.addr = none) :
    hostStep t s = .refused .outsideWindow := by
  simp only [hostStep, h]

/-! ## The statements -/

/-- Settles O9: the code's clauses are its number at each constructor. -/
theorem statusLayout : Obligations.StatusLayout := by
  intro s
  obtain ⟨hbusy, hdone, hflag, hovr⟩ := statusWord_low_bits s
  have hcode := statusWord_code s
  have hnumber {c : CompletionCode} (h : s.code = c) : s.statusWord.extractLsb 7 4 = c.number := h ▸ hcode
  exact ⟨hbusy, hdone, hflag, hovr, hcode, hnumber, hnumber, hnumber, hnumber, hnumber, hnumber, hnumber,
    statusWord_reserved s, hcode ▸ s.code.number_le_six, busy_iff s⟩

/-- Settles O10: the answer is what the register at the offset reads. -/
theorem readReturnsTheRegister : Obligations.ReadReturnsTheRegister := by
  intro s o rest h h64 h4
  have hread : readTarget s.popAgenda (target o) = readTarget s (target o) := by
    rw [popAgenda_of_cons h]
    exact readTarget_agenda_response s rest s.response _
  refine ⟨readTarget s (target o), ?_, ?data, ?cmd, ?status, ?ctrl, ?id, ?reserved⟩
  · rw [step_rdAt h h64 h4, hread, popAgenda_of_cons h]
  case data =>
    rintro k rfl
    rw [target_data, readTarget]
  case cmd =>
    rintro rfl
    rfl
  case status =>
    rintro rfl
    rfl
  case ctrl =>
    rintro rfl
    exact ⟨ctrlWord_ie s, ctrlWord_reserved s⟩
  case id =>
    rintro rfl
    rfl
  case reserved =>
    intro hge
    rw [target_of_ge_id (by omega) h64 h4, if_neg (by omega), readTarget]

/-- Settles O12: the write changes the one register and no other field. -/
theorem dataWriteWhileIdleTakesEffect : Obligations.DataWriteWhileIdleTakesEffect := by
  intro s k v rest hp h
  refine ⟨_, step_wrData_idle hp h, ?_, fun j hj => ?_, rfl⟩
  · exact (reg_set s k k v).trans (if_pos rfl)
  · exact (reg_set s k j v).trans (if_neg hj.symm)

/-- Settles O19: no offset of the window has such an address. -/
theorem addressOutsideTheWindowIsRefused : Obligations.AddressOutsideTheWindowIsRefused :=
  fun _ _ _ h hout => (step_cons h).trans (hostStep_of_outside _ (windowOffset_of_outside hout))

/-- Settles O7: eight closed words. -/
theorem sampleWordsDecode : Obligations.SampleWordsDecode :=
  ⟨by decide, by decide, by decide, by decide, by decide, by decide, by decide, by decide⟩

end Sys2Proof.Machine
end
